-- ==== Sys2Proof/Word.lean ====
section
/-! DEFINITION. The word types of the block (00_scope.md R10): `u8`, `i16`/16-bit halves and `u32`. -/

namespace Sys2Proof

/-- A byte of BUF, `u8`. -/
abbrev Byte := BitVec 8

/-- A 16-bit PCM sample; its value as `i16` is `BitVec.toInt` (R10, `sext_16`). -/
abbrev Sample := BitVec 16

/-- A 32-bit register or command word, `u32`. -/
abbrev Word := BitVec 32

end Sys2Proof
end

