-- ==== Sys2Proof/Config.lean ====
section
/-! DEFINITION. The implementation parameters (00_scope.md R7) and the free values: what the spec leaves
unspecified or uninterpreted. A free value is an `opaque` constant without a body; no proof can see its value. -/

namespace Sys2Proof

/-- The rounding of the mixer's scaling (R7: "TRUNC only in revision 1"). -/
inductive MixRound where
  | trunc
  deriving DecidableEq, Repr

/-- The parameters of R7. `State` carries them in the constant field `hw`, so that every statement over states holds
for every parameter choice (log 3). -/
structure Config where
  /-- `MEM_BYTES`, size of BUF. -/
  memBytes : Nat
  /-- `BUF_BASE`, host offset of the BUF window. -/
  bufBase : Nat
  /-- `MAX_CHANNELS`. -/
  maxChannels : Nat
  /-- `ALAW_RTP_SUPPORTED`. -/
  alawRtp : Bool
  /-- `MIX_COUNT_EMPTY`. -/
  mixCountEmpty : Bool
  /-- `MIX_ROUND`. -/
  mixRound : MixRound
  /-- `ID_REV`. -/
  idRev : Byte
  deriving DecidableEq, Repr

/-- The values this hardware takes (R7, column "default"). -/
def Config.default : Config :=
  { memBytes := 65536, bufBase := 0x10000, maxChannels := 32, alawRtp := true, mixCountEmpty := true,
    mixRound := .trunc, idRev := 0x01 }

/-- The legal ranges of R7. -/
def Config.legal (c : Config) : Bool :=
  12 ≤ c.memBytes && c.memBytes + c.bufBase ≤ 2 ^ 32 && c.bufBase % 0x10000 == 0 && 0x10000 ≤ c.bufBase
    && 1 ≤ c.maxChannels && c.maxChannels ≤ 65536

/-- A frame the codec's encoder returns: 0 to `G729_MAX_FRAME` = 10 bytes (R93). The bytes are the first `len` of
`raw`, so a longer answer cannot be written down. -/
structure CodecFrame where
  len : Fin 11
  raw : Vector Byte 10
  deriving DecidableEq, Repr, Inhabited

/-- The byte string of the frame. -/
def CodecFrame.bytes (f : CodecFrame) : List Byte := f.raw.toList.take f.len

namespace Config

/-- `G729_DEC` of R95: the answer to the last Decode as a function of the 10-byte frames sent on its context (log 6). -/
opaque g729Dec : List (List Byte) → Vector Sample 80

/-- `G729_ENC` of R95: the answer to the last Encode as a function of the 80-sample frames sent on its context (log 6). -/
opaque g729Enc : List (List Sample) → CodecFrame

/-- The handle a successful Acquire answers with (R91; log 7). -/
opaque codecHandle : Nat → Nat

/-- BUF's byte at an address after the reset with a given epoch (R122: "any value"; log 5). -/
opaque bufAtReset : Nat → Nat → Byte

/-- What a host read of a destination byte returns while BUSY (R49, U5; log 13). -/
opaque busyRead : Nat → Nat → Byte

/-- A byte of the capacity span after host interference (R49, U4; log 12). -/
opaque interferedByte : Nat → Nat → Byte

/-- Which of the fifteen completion codes a command with host interference reports (R49, U4; log 12). -/
opaque interferedCode : Nat → Fin 15

/-- RES_LEN, ERR_INFO0 and ERR_INFO1 after host interference (R49, U4; log 12). -/
opaque interferedResLen : Nat → Word
opaque interferedInfo0 : Nat → Word
opaque interferedInfo1 : Nat → Word

/-- `engine.acc` once MIX has completed (R36: "unspecified outside a MIX command"; log 18). -/
opaque accOutsideMix : Nat → List (BitVec 32)

end Config
end Sys2Proof
end

