-- ==== Sys2Proof/Syntax.lean ====
section
/-! DEFINITION. The commands: one constructor per row of spec/opcode_table.json (30_encoding.md R55). -/

namespace Sys2Proof

/-- The companding law the LAW bit selects (R52). -/
inductive Law where
  | mu
  | a
  deriving DecidableEq, Repr

/-- A command. The RTP commands carry the two free fields of their word, FCDEF and FCNT (R53, R55); the frame count
they stand for is `frameCount` (log 19). -/
inductive Instr where
  /-- CENC.U, R66 -/
  | cencU
  /-- CENC.A, R67 -/
  | cencA
  /-- CDEC.U, R68 -/
  | cdecU
  /-- CDEC.A, R69 -/
  | cdecA
  /-- H2N, R71 -/
  | h2n
  /-- N2H, R72 -/
  | n2h
  /-- MIX, R76 -/
  | mix
  /-- RTPD.U, R84 -/
  | rtpdU (fcdef : Bool) (fcnt : BitVec 16)
  /-- RTPD.A, R85 -/
  | rtpdA (fcdef : Bool) (fcnt : BitVec 16)
  /-- RTPE.U, R86 -/
  | rtpeU (fcdef : Bool) (fcnt : BitVec 16)
  /-- RTPE.A, R87 -/
  | rtpeA (fcdef : Bool) (fcnt : BitVec 16)
  deriving DecidableEq, Repr

end Sys2Proof
end

