-- ==== Sys2Proof/WellFormed.lean ====
section
/-! DEFINITION. Which commands a block with given parameters has (30_encoding.md R54, 00_scope.md R9). -/

namespace Sys2Proof

/-- Every command, except that RTPD.A and RTPE.A need `ALAW_RTP_SUPPORTED` = 1 (R9, R54). All other limits are in the
types of the operands. -/
def wellFormed (hw : Config) : Instr → Bool
  | .cencU => true
  | .cencA => true
  | .cdecU => true
  | .cdecA => true
  | .h2n => true
  | .n2h => true
  | .mix => true
  | .rtpdU _ _ => true
  | .rtpdA _ _ => hw.alawRtp
  | .rtpeU _ _ => true
  | .rtpeA _ _ => hw.alawRtp

end Sys2Proof
end

