-- ==== Sys2Proof/Decode.lean ====
section
/-! DEFINITION. The decoder of 30_encoding.md R56, total on every 32-bit word, and the encoder written from R50 and R55. -/

namespace Sys2Proof

/-- Why a word is illegal (R54). Every one of them completes with IllegalCommand (R50). -/
inductive Illegal where
  /-- RSV, bits [15:6], not 0 -/
  | reservedBits
  /-- OP 0x0 or 0x8–0xF -/
  | unusedOp
  /-- OP 0x1 or 0x2 with a bit of [31:5] set -/
  | compandBits
  /-- OP 0x3, 0x4 or 0x5 with a bit of [31:4] set -/
  | plainBits
  /-- an A-law RTP word when `ALAW_RTP_SUPPORTED` = 0 -/
  | alawRtpAbsent
  deriving DecidableEq, Repr

/-- The fields of a command word (R50). -/
def opField (w : Word) : BitVec 4 := w.extractLsb' 0 4
def lawBit (w : Word) : Bool := w.getLsbD 4
def fcdefBit (w : Word) : Bool := w.getLsbD 5
def rsvField (w : Word) : BitVec 10 := w.extractLsb' 6 10
def fcntField (w : Word) : BitVec 16 := w.extractLsb' 16 16

/-- The frame count of an RTP command (R53): the default 2 when FCDEF = 1, else FCNT as a signed number. -/
def frameCount (fcdef : Bool) (fcnt : BitVec 16) : Int :=
  if fcdef then 2 else fcnt.toInt

/-- The decoder (R56), in its order of tests. -/
def decode (hw : Config) (w : Word) : Except Illegal Instr :=
  if rsvField w ≠ 0 then .error .reservedBits
  else match (opField w).toNat with
    | 1 => if w.extractLsb' 5 27 ≠ 0 then .error .compandBits
           else .ok (if lawBit w then .cencA else .cencU)
    | 2 => if w.extractLsb' 5 27 ≠ 0 then .error .compandBits
           else .ok (if lawBit w then .cdecA else .cdecU)
    | 3 => if w.extractLsb' 4 28 ≠ 0 then .error .plainBits else .ok .h2n
    | 4 => if w.extractLsb' 4 28 ≠ 0 then .error .plainBits else .ok .n2h
    | 5 => if w.extractLsb' 4 28 ≠ 0 then .error .plainBits else .ok .mix
    | 6 => if lawBit w && !hw.alawRtp then .error .alawRtpAbsent
           else .ok (if lawBit w then .rtpdA (fcdefBit w) (fcntField w) else .rtpdU (fcdefBit w) (fcntField w))
    | 7 => if lawBit w && !hw.alawRtp then .error .alawRtpAbsent
           else .ok (if lawBit w then .rtpeA (fcdefBit w) (fcntField w) else .rtpeU (fcdefBit w) (fcntField w))
    | _ => .error .unusedOp

/-- A word from its fields, RSV = 0 (R50). -/
def packWord (fcnt : BitVec 16) (fcdef law : Bool) (op : BitVec 4) : Word :=
  fcnt ++ (0 : BitVec 10) ++ BitVec.ofBool fcdef ++ BitVec.ofBool law ++ op

/-- The word of a command (R55). -/
def encode : Instr → Word
  | .cencU => packWord 0 false false 1
  | .cencA => packWord 0 false true 1
  | .cdecU => packWord 0 false false 2
  | .cdecA => packWord 0 false true 2
  | .h2n => packWord 0 false false 3
  | .n2h => packWord 0 false false 4
  | .mix => packWord 0 false false 5
  | .rtpdU d n => packWord n d false 6
  | .rtpdA d n => packWord n d true 6
  | .rtpeU d n => packWord n d false 7
  | .rtpeA d n => packWord n d true 7

/-- The decoder as the host asks for it: the instruction whose `nbits` bits are `w`, under the default parameters. -/
def decodeTableWord (nbits w : Nat) : Option Instr :=
  match decode Config.default (BitVec.ofNat 32 (w % 2 ^ nbits)) with
  | .ok i => some i
  | .error _ => none

end Sys2Proof
end

