-- ==== Sys2Proof/Machine/State.lean ====
section
/-! DEFINITION. The state of the block and of what its step reads: CSRs, operand latch, engine, BUF, codec port, reset
input, and the list of outside events still to come. Every field is plain data. -/

namespace Sys2Proof.Machine

/-- The completion codes of 60_exceptions.md R101; `CompletionCode.value` gives their numbers. -/
inductive CompletionCode where
  | ok
  | oddLength
  | tooShort
  | invalidChannelLength
  | packetTooShort
  | invalidVersion
  | payloadTypeMismatch
  | invalidFrameCount
  | codecInitFailed
  | codecFrameFailed
  | illegalCommand
  | bufferOutOfRange
  | outputTooSmall
  | regionOverlap
  | tooManyChannels
  deriving DecidableEq, Repr

/-- The stored bits of the CSRs (10_state.md R23). Bits and offsets the map does not name are RAZ/WI and have no
storage (R22); ID and MEMSZ are constants computed from the parameters (R24, R34). -/
structure Csr where
  /-- CTRL.IE, R25 -/
  ie : Bool
  /-- STATUS.BUSY, R26 -/
  busy : Bool
  /-- STATUS.DONE, R26 -/
  done : Bool
  /-- STATUS.REJ, R26 -/
  rej : Bool
  /-- STATUS.ERR, R26 -/
  err : Byte
  /-- CMD, R27 -/
  cmd : Word
  /-- SRC_ADDR, R28 -/
  srcAddr : Word
  /-- SRC_LEN, R29 -/
  srcLen : Word
  /-- DST_ADDR, R30 -/
  dstAddr : Word
  /-- DST_CAP, R31 -/
  dstCap : Word
  /-- RES_LEN, R32 -/
  resLen : Word
  /-- ERR_INFO0, R33 -/
  errInfo0 : Word
  /-- ERR_INFO1, R33 -/
  errInfo1 : Word
  deriving DecidableEq, Repr

/-- The operand latch (R35), written at acceptance only. -/
structure Latch where
  opWord : Word
  sAddr : Word
  sLen : Word
  dAddr : Word
  dCap : Word
  deriving DecidableEq, Repr

/-- The direction of a channel context: decoder or encoder (R36, R91). -/
inductive Dir where
  | dec
  | enc
  deriving DecidableEq, Repr

/-- An opaque codec handle; the block only passes it back (R99). -/
abbrev Handle := Nat

/-- A held channel context, HANDLE(dir, h) of R36. -/
structure Context where
  dir : Dir
  handle : Handle
  deriving DecidableEq, Repr

/-- Where the running command stands: the loop indices of R36 that live across engine turns (log 1). -/
inductive Position where
  /-- accepted: no turn taken yet, or waiting to issue Acquire until an abandoned answer arrives (log 10) -/
  | start
  /-- RTP: all checks passed, Acquire issued -/
  | acquiring
  /-- RTP: frame `index` handed to the codec; its output goes to packet offset `off` -/
  | frame (index off : Nat)
  deriving DecidableEq, Repr

/-- engine.phase (R36). -/
inductive Phase where
  | idle
  | run (at_ : Position)
  deriving DecidableEq, Repr

/-- The requests of the codec port (44_codec_port.md R90). -/
inductive CodecRequest where
  | acquire (dir : Dir)
  | decode (h : Handle) (bits : List Byte)
  | encode (h : Handle) (pcm : List Sample)
  | release (h : Handle)
  deriving DecidableEq, Repr

/-- The answers of the codec port (R90): 80 samples, a byte string of at most 10 bytes, a handle, or FAIL. -/
inductive CodecAnswer where
  | fail
  | handle (h : Handle)
  | pcm (samples : Vector Sample 80)
  | bits (frame : CodecFrame)
  deriving DecidableEq, Repr

/-- The codec port: at most one request outstanding (R90). -/
inductive Port where
  | quiet
  | waiting (r : CodecRequest)
  | answered (a : CodecAnswer)
  deriving DecidableEq, Repr

/-- The widths of a host access (20_memory.md R43). -/
inductive Width where
  | w8
  | w16
  | w32
  deriving DecidableEq, Repr

/-- A host bus transaction (30_encoding.md R57): direction, width, host offset, data. -/
inductive HostTxn where
  | read (w : Width) (off : Nat)
  | write (w : Width) (off : Nat) (v : Word)
  deriving DecidableEq, Repr

/-- The response to a host transaction (R43, R115). -/
inductive BusReply where
  | written
  | data (v : Word)
  | busError
  deriving DecidableEq, Repr

/-- Who moves, and with what (10_state.md R20, 70_reset_and_hazards.md R120). -/
inductive Event where
  /-- the HOST performs one bus transaction -/
  | host (t : HostTxn)
  /-- the ENGINE takes a turn -/
  | engine
  /-- the CODEC answers the outstanding request: `ok` as R95 says, else FAIL (R91, R96) -/
  | codec (ok : Bool)
  /-- the answer to a request that a reset abandoned arrives (R123) -/
  | codecLate
  /-- the PLATFORM asserts the reset input -/
  | resetAssert
  /-- the PLATFORM deasserts the reset input -/
  | resetDeassert
  deriving DecidableEq, Repr

/-- BUF as the list of the bytes written since reset, addresses strictly rising (`Memory.wf`; log 5). -/
abbrev Memory := List Host.Cell

/-- Why a step stops. The spec has no such case: an error ends the command with a completion code and never stops the
block (60_exceptions.md R100), and a host access outside the map is answered with a bus error (R115). So nobody raises a
fault and the type is empty (log 26; safe, since a fault could only hide behaviour). -/
inductive Fault where
  deriving DecidableEq, Repr

/-- Why an instruction is not run. -/
inductive Refusal where
  /-- an instruction that has no meaning yet; raised only by refused arms of `exec`, of which there are none (safe) -/
  | notModelled (mnemonic : String)
  deriving DecidableEq, Repr

/-- The machine. -/
structure State where
  /-- the parameters of R7, constant -/
  hw : Config
  /-- the CSRs, R23 -/
  csr : Csr
  /-- the operand latch, R35 -/
  latch : Latch
  /-- engine.phase with the loop indices, R36 -/
  phase : Phase
  /-- engine.ctx, R36 -/
  ctx : Option Context
  /-- engine.acc, R36, R78 -/
  acc : List (BitVec 32)
  /-- BUF, R37 -/
  buf : Memory
  /-- the reset input is asserted, R120 -/
  inReset : Bool
  /-- the codec port, R90 -/
  port : Port
  /-- the CODEC's own memory of the frames sent on the live decoder context, R95 -/
  decHist : List (List Byte)
  /-- the same for the live encoder context, R95 -/
  encHist : List (List Sample)
  /-- answers still to come for requests abandoned by a reset, R123 -/
  abandoned : Nat
  /-- model's own: the requests issued on the codec port, oldest first -/
  codecLog : List CodecRequest
  /-- model's own: the response to the latest host access -/
  busReply : Option BusReply
  /-- model's own: the host wrote into the running command's regions, R49 -/
  tainted : Bool
  /-- model's own: which draw of BUF's reset contents is in force, R122 -/
  epoch : Nat
  /-- model's own: the counter of free values drawn -/
  draws : Nat
  /-- the outside events and engine turns to come, first one first; when empty the ENGINE moves (log 2) -/
  inputs : List Event
  deriving DecidableEq, Repr

/-- Every CSR at its reset value (70_reset_and_hazards.md R121). -/
def Csr.reset : Csr :=
  { ie := false, busy := false, done := false, rej := false, err := 0, cmd := 0, srcAddr := 0, srcLen := 0,
    dstAddr := 0, dstCap := 0, resLen := 0, errInfo0 := 0, errInfo1 := 0 }

/-- The latch after reset: the spec leaves it unspecified (R121); DESIGN CHOICE zero, unsafe (log 4). -/
def Latch.reset : Latch :=
  { opWord := 0, sAddr := 0, sLen := 0, dAddr := 0, dCap := 0 }

/-- The machine right after reset (R39, R121, R122), with the default parameters. The latch and acc are DESIGN CHOICE
(log 4); the fields from `decHist` on are the CODEC's or the model's own (logs 9, 10, 20). -/
def State.reset : State :=
  { hw := Config.default, csr := Csr.reset, latch := Latch.reset, phase := .idle, ctx := none, acc := [], buf := [],
    inReset := false, port := .quiet, decHist := [], encHist := [], abandoned := 0, codecLog := [], busReply := none,
    tainted := false, epoch := 0, draws := 0, inputs := [] }

end Sys2Proof.Machine
end

