-- ==== Sys2Proof/Machine/Flags.lean ====
section
/-! DEFINITION. The register words software sees: completion codes, CTRL, STATUS, ID, MEMSZ, and the interrupt level. -/

namespace Sys2Proof.Machine

/-- The number of a completion code (60_exceptions.md R101). -/
def CompletionCode.value : CompletionCode → Byte
  | .ok => 0x00
  | .oddLength => 0x01
  | .tooShort => 0x02
  | .invalidChannelLength => 0x03
  | .packetTooShort => 0x04
  | .invalidVersion => 0x05
  | .payloadTypeMismatch => 0x06
  | .invalidFrameCount => 0x07
  | .codecInitFailed => 0x08
  | .codecFrameFailed => 0x09
  | .illegalCommand => 0x10
  | .bufferOutOfRange => 0x11
  | .outputTooSmall => 0x12
  | .regionOverlap => 0x13
  | .tooManyChannels => 0x14

/-- The fifteen codes of R101, in its order. -/
def completionCodes : List CompletionCode :=
  [.ok, .oddLength, .tooShort, .invalidChannelLength, .packetTooShort, .invalidVersion, .payloadTypeMismatch,
    .invalidFrameCount, .codecInitFailed, .codecFrameFailed, .illegalCommand, .bufferOutOfRange, .outputTooSmall,
    .regionOverlap, .tooManyChannels]

/-- A byte that STATUS.ERR can hold: R101's codes; 0x0A–0x0F and 0x15–0xFF are never produced (93 U16). -/
def isCompletionValue (e : Byte) : Bool := (completionCodes.map CompletionCode.value).contains e

/-- The code at a drawn index. -/
def completionAt (i : Fin 15) : CompletionCode := completionCodes.getD i.val .ok

/-- CTRL as read (10_state.md R25): IE in bit 0, the rest reads zero. -/
def ctrlWord (c : Csr) : Word := (BitVec.ofBool c.ie).setWidth 32

/-- STATUS as read (R26): BUSY [0], DONE [1], REJ [2], ERR [15:8], the rest reads zero. -/
def statusWord (c : Csr) : Word :=
  (0 : BitVec 16) ++ c.err ++ (0 : BitVec 5) ++ BitVec.ofBool c.rej ++ BitVec.ofBool c.done ++ BitVec.ofBool c.busy

/-- ID (R24): REV [7:0], ARTP [8], MCE [9], MAXCH_M1 [31:16]. -/
def idWord (hw : Config) : Word :=
  BitVec.ofNat 16 (hw.maxChannels - 1) ++ (0 : BitVec 6) ++ BitVec.ofBool hw.mixCountEmpty ++ BitVec.ofBool hw.alawRtp
    ++ hw.idRev

/-- MEMSZ (R34): MEM_BYTES mod 2^32. -/
def memszWord (hw : Config) : Word := BitVec.ofNat 32 hw.memBytes

/-- A write to STATUS (R26): DONE and REJ are W1C, the rest is RO. -/
def writeStatus (v : Word) (c : Csr) : Csr :=
  { c with done := c.done && !v.getLsbD 1, rej := c.rej && !v.getLsbD 2 }

/-- The interrupt output (R38, 60_exceptions.md R112): a level, not stored. -/
def State.irq (s : State) : Bool := s.csr.ie && s.csr.done

end Sys2Proof.Machine
end

