-- ==== Sys2Proof/Machine/Ops.lean ====
section
/-! DEFINITION. The named operations: BUF, regions, the codec port's requests, command acceptance, and the two completion
steps. An error completion is the block's only "exception", and `State.raiseError` is its one shared operation. -/

namespace Sys2Proof.Machine

/-! ### BUF (10_state.md R37, 20_memory.md R40) -/

/-- The canonical form: addresses strictly rising. An unlisted address was not written since reset, so no entry can equal
what an unlisted address holds, which is no fixed byte (log 5). -/
def Memory.wf : Memory → Bool
  | [] => true
  | [_] => true
  | c :: d :: m => c.1 < d.1 && Memory.wf (d :: m)

/-- The byte written last at an address since reset, if any. -/
def Memory.find : Memory → Nat → Option Byte
  | [], _ => none
  | (k, v) :: m, a => if a = k then some v else Memory.find m a

/-- Write one byte. -/
def Memory.put : Memory → Nat → Byte → Memory
  | [], a, b => [(a, b)]
  | (k, v) :: m, a, b =>
    if a < k then (a, b) :: (k, v) :: m else if a = k then (a, b) :: m else (k, v) :: Memory.put m a b

/-- Write consecutive bytes, lowest address first. -/
def Memory.putAll : Memory → Nat → List Byte → Memory
  | m, _, [] => m
  | m, a, b :: bs => Memory.putAll (Memory.put m a b) (a + 1) bs

/-- What an address that was not written since reset reads as: the byte drawn at reset (70_reset_and_hazards.md R122). -/
def State.unwritten (s : State) (a : Nat) : Byte := Config.bufAtReset s.epoch a

/-- `Byte(a)` of 00_scope.md R12. -/
def State.byte (s : State) (a : Nat) : Byte := (Memory.find s.buf a).getD (s.unwritten a)

/-- `Sample(a)` of R12 as its 16 bits, little-endian (R40). -/
def State.sample (s : State) (a : Nat) : Sample := s.byte (a + 1) ++ s.byte a

/-- `MemRead(a, 4)` of R12 (R40). -/
def State.word (s : State) (a : Nat) : Word := s.byte (a + 3) ++ s.byte (a + 2) ++ s.byte (a + 1) ++ s.byte a

/-- `n` consecutive bytes of BUF. -/
def State.bytes (s : State) (a n : Nat) : List Byte := (List.range n).map fun k => s.byte (a + k)

/-- `MemWrite` of R12, byte after byte. -/
def State.writeBytes (s : State) (a : Nat) (bs : List Byte) : State := { s with buf := Memory.putAll s.buf a bs }

/-- A 16-bit value as its two bytes, least significant first (R12, R40). -/
def halfBytes (v : BitVec 16) : List Byte := [v.extractLsb' 0 8, v.extractLsb' 8 8]

/-! ### Regions (00_scope.md R13) -/

/-- A region `(a, n)`: the offsets `a .. a+n-1`. -/
structure Region where
  start : Nat
  len : Nat
  deriving DecidableEq, Repr

/-- `InRange` of R13, without wrap. -/
def Region.inRange (memBytes : Nat) (r : Region) : Bool := r.len == 0 || r.start + r.len ≤ memBytes

/-- `Overlap` of R13. -/
def Region.overlaps (r q : Region) : Bool :=
  0 < r.len && 0 < q.len && r.start < q.start + q.len && q.start < r.start + r.len

/-- The offset belongs to the region. -/
def Region.covers (r : Region) (a : Nat) : Bool := r.start ≤ a && a < r.start + r.len

/-! ### The codec port (44_codec_port.md R90, R94) -/

/-- Issue a request whose answer is awaited. -/
def State.issue (s : State) (r : CodecRequest) : State :=
  { s with port := .waiting r, codecLog := s.codecLog ++ [r] }

/-- `Codec.Release` (R94): a no-op when no context is held; no answer is awaited. -/
def State.releaseCtx (s : State) : State :=
  match s.ctx with
  | none => s
  | some c => { s with ctx := none, codecLog := s.codecLog ++ [.release c.handle] }

/-- The engine has taken the answer. -/
def State.takeAnswer (s : State) : State := { s with port := .quiet }

/-! ### Completion (60_exceptions.md R100–R103) -/

/-- An error and its two data, already mod 2^32 (R101). -/
structure Failure where
  code : CompletionCode
  info0 : Word
  info1 : Word
  deriving DecidableEq, Repr

/-- A failure whose data are natural numbers. -/
def Failure.of (code : CompletionCode) (i0 i1 : Nat) : Failure := ⟨code, BitVec.ofNat 32 i0, BitVec.ofNat 32 i1⟩

/-- One check: the failure when the condition holds. -/
def failIf (bad : Bool) (f : Failure) : Option Failure := if bad then some f else none

/-- The first check that fails is the one reported (R105). -/
def firstFailure (checks : List (Option Failure)) : Option Failure := checks.findSome? id

/-- The completion step's CSR writes, shared by R102 and R103. -/
def Csr.completed (c : Csr) (code : CompletionCode) (len i0 i1 : Word) : Csr :=
  { c with resLen := len, errInfo0 := i0, errInfo1 := i1, err := code.value, busy := false, done := true }

/-- `complete(len)`, R102. engine.acc stays as it was (log 18). -/
def State.complete (s : State) (len : Nat) : State :=
  { s with csr := s.csr.completed .ok (BitVec.ofNat 32 len) 0 0, phase := .idle }

/-- `raise E(i0, i1)`, R103: release a held context, then report the error. engine.acc stays as it was, a DESIGN CHOICE where
R36 leaves it unspecified (log 18). -/
def State.raiseError (s : State) (f : Failure) : State :=
  let r := s.releaseCtx
  { r with csr := r.csr.completed f.code 0 f.info0 f.info1, phase := .idle }

/-- IllegalCommand, R107: no BUF access, no codec request. -/
def State.illegal (s : State) : State := s.raiseError ⟨.illegalCommand, s.latch.opWord, 0⟩

/-! ### Command acceptance (10_state.md R27) -/

/-- A CMD write that is accepted: one step, and the word, legal or not, is latched with its operands. -/
def State.accept (s : State) (w : Word) : State :=
  { s with
    csr := { s.csr with cmd := w, busy := true, done := false, err := 0, resLen := 0, errInfo0 := 0, errInfo1 := 0 }
    latch := { opWord := w, sAddr := s.csr.srcAddr, sLen := s.csr.srcLen, dAddr := s.csr.dstAddr, dCap := s.csr.dstCap }
    phase := .run .start
    tainted := false }

/-- A CMD write that is refused because BUSY = 1: only REJ changes. -/
def State.reject (s : State) : State := { s with csr := { s.csr with rej := true } }

/-- A CMD write (R27). -/
def State.writeCmd (s : State) (w : Word) : State := if s.csr.busy then s.reject else s.accept w

/-- The three outcomes of a step of this machine. -/
abbrev Result := Host.Outcome State Fault Refusal

end Sys2Proof.Machine
end

