-- ==== Sys2Proof/Machine/CodecPort.lean ====
section
/-! DEFINITION. The CODEC agent (44_codec_port.md R90–R99): what it answers, and the late answers after a reset. -/

namespace Sys2Proof.Machine

/-- The CODEC answers the outstanding request: a fresh context with an empty history (R91), the function of the frames
sent on the context (R95), or FAIL (R91, R96). With no request outstanding there is nothing to answer (log 23). -/
def codecTurn (ok : Bool) (s : State) : State :=
  match s.port with
  | .waiting (.acquire _) =>
    if ok then
      { s with port := .answered (.handle (Config.codecHandle s.draws)), draws := s.draws + 1, decHist := [], encHist := [] }
    else { s with port := .answered .fail }
  | .waiting (.decode _ f) =>
    { s with
      decHist := s.decHist ++ [f]
      port := .answered (if ok then .pcm (Config.g729Dec (s.decHist ++ [f])) else .fail) }
  | .waiting (.encode _ p) =>
    { s with
      encHist := s.encHist ++ [p]
      port := .answered (if ok then .bits (Config.g729Enc (s.encHist ++ [p])) else .fail) }
  | .waiting (.release _) => s
  | .quiet => s
  | .answered _ => s

/-- The answer to a request abandoned by a reset arrives and is discarded (70_reset_and_hazards.md R123). -/
def codecLateTurn (s : State) : State := { s with abandoned := s.abandoned - 1 }

end Sys2Proof.Machine
end

