-- ==== Sys2Proof/Machine/Operands.lean ====
section
/-! DEFINITION. The operand forms: the latched regions (30_encoding.md R59), the MIX channel table (42_mixer.md R73,
R74), the RTP packet's layout (43_rtp_rewriter.md R80–R88), and which regions a command reads and writes (60_exceptions.md
R108, R110). -/

namespace Sys2Proof.Machine

/-! ### Constants (00_scope.md R8) -/

/-- `RTP_HDR`, the fixed 12-byte header. -/
def rtpHdr : Nat := 12
/-- `G729_FRAME`, bytes of a bitstream frame. -/
def g729Frame : Nat := 10
/-- `CMP_FRAME`, bytes of a companded frame: 80 samples, as in `PCM_FRAME`. -/
def cmpFrame : Nat := 80
/-- `G729_MAX_FRAME`, fixed at 10 (R7). -/
def g729MaxFrame : Nat := 10
/-- `PT_G729` -/
def ptG729 : Nat := 18
/-- `PT_PCMU` -/
def ptPcmu : Nat := 0
/-- `PT_PCMA` -/
def ptPcma : Nat := 8
/-- `RTP_VERSION` -/
def rtpVersion : Nat := 2

/-! ### Latched operands (R59) -/

def State.srcStart (s : State) : Nat := s.latch.sAddr.toNat
def State.srcLength (s : State) : Nat := s.latch.sLen.toNat
def State.dstStart (s : State) : Nat := s.latch.dAddr.toNat
def State.dstCapacity (s : State) : Nat := s.latch.dCap.toNat

/-- The source region, id 0 of R108. -/
def State.srcRegion (s : State) : Region := ⟨s.srcStart, s.srcLength⟩

/-- The destination region, id 1 of R108. -/
def State.dstRegion (s : State) (need : Nat) : Region := ⟨s.dstStart, need⟩

/-- Not `InRange` (R108). -/
def State.outOfRange (s : State) (r : Region) : Bool := !r.inRange s.hw.memBytes

/-- BufferOutOfRange with a region id (R108). -/
def rangeFailure (id start : Nat) : Failure := .of .bufferOutOfRange id start

/-- The source range check that CENC, CDEC, H2N, N2H, RTPD and RTPE share. -/
def srcCheck (s : State) : Option Failure := failIf (s.outOfRange s.srcRegion) (rangeFailure 0 s.srcStart)

/-- OutputTooSmall, then the destination's range (R105, R109, R108). -/
def dstChecks (s : State) (need : Nat) : List (Option Failure) :=
  [failIf (s.dstCapacity < need) (.of .outputTooSmall need s.dstCapacity),
    failIf (s.outOfRange (s.dstRegion need)) (rangeFailure 1 s.dstStart)]

/-- The source region must not overlap the destination (R110). -/
def srcOverlapCheck (s : State) (need : Nat) : Option Failure :=
  failIf (s.srcRegion.overlaps (s.dstRegion need)) (.of .regionOverlap 0 0)

/-! ### Output lengths of the buffer commands -/

/-- CENC writes one code per sample (R66). For an odd length, where R66 stops before it computes need, the half rounded down
(DESIGN CHOICE, log 11). -/
def cencNeed (s : State) : Nat := s.srcLength / 2
/-- CDEC writes one sample per code (R68). -/
def cdecNeed (s : State) : Nat := 2 * s.srcLength
/-- H2N and N2H write as many bytes as they read (R71). -/
def swapNeed (s : State) : Nat := s.srcLength

/-! ### The MIX channel table (R73, R74) -/

/-- One entry of the table. -/
structure Channel where
  valid : Bool
  start : Nat
  len : Nat
  deriving DecidableEq, Repr

/-- Channel j's buffer, region id 0x100 + j of R108. -/
def Channel.region (c : Channel) : Region := ⟨c.start, c.len⟩

/-- The channel table, id 2 of R108. -/
def State.tableRegion (s : State) : Region := ⟨s.srcStart, 8 * s.srcLength⟩

/-- Entry j (R73). -/
def State.channel (s : State) (j : Nat) : Channel :=
  let w := s.word (s.srcStart + 8 * j + 4)
  { valid := w.getLsbD 31, start := (s.word (s.srcStart + 8 * j)).toNat, len := (w.extractLsb' 0 31).toNat }

/-- All entries, in order. -/
def State.channels (s : State) : List Channel := (List.range s.srcLength).map s.channel

/-- `act` of R74. -/
def activeCount (hw : Config) (chs : List Channel) : Nat :=
  chs.countP fun c => c.valid && (hw.mixCountEmpty || 0 < c.len)

/-- `L` of R76: the longest valid channel, in samples. -/
def longest (chs : List Channel) : Nat :=
  chs.foldr (fun c l => if c.valid then max (c.len / 2) l else l) 0

/-- `need` of R76. -/
def mixLength (hw : Config) (chs : List Channel) : Nat :=
  if activeCount hw chs = 0 then 0 else match chs with
    | [c] => c.len
    | _ => 2 * longest chs

def mixNeed (s : State) : Nat := mixLength s.hw s.channels

/-- MIX can read its table: at most MAX_CHANNELS entries, all of them in BUF (R76). -/
def tableReadable (s : State) : Bool := s.srcLength ≤ s.hw.maxChannels && !s.outOfRange s.tableRegion

/-! ### The RTP packet (R80–R88) -/

/-- The slice size S of R88: what one input frame takes in the packet. -/
def rtpInFrame : Dir → Nat
  | .dec => g729Frame
  | .enc => cmpFrame

/-- What one output frame takes at most. -/
def rtpOutFrame : Dir → Nat
  | .dec => cmpFrame
  | .enc => g729MaxFrame

/-- `req` of R84 and R86. -/
def rtpRequired (d : Dir) (fc : Int) : Nat := rtpHdr + rtpInFrame d * fc.toNat

/-- `need` of R84 and R86; for the encode direction the worst case. For fc ≤ 0, where the pseudocode stops before it computes
need, the header's 12 bytes (DESIGN CHOICE, log 11). -/
def rtpNeed (d : Dir) (fc : Int) : Nat := rtpHdr + rtpOutFrame d * fc.toNat

/-- `PT_OUT` of R81. -/
def ptOut : Dir → Law → Nat
  | .dec, .mu => ptPcmu
  | .dec, .a => ptPcma
  | .enc, _ => ptG729

/-- V, header byte 0 bits [7:6] (R80). -/
def State.rtpVersionField (s : State) : Nat := ((s.byte s.srcStart).extractLsb' 6 2).toNat

/-- PT, header byte 1 bits [6:0] (R80). -/
def State.rtpTypeField (s : State) : Nat := ((s.byte (s.srcStart + 1)).extractLsb' 0 7).toNat

/-- The output header (R81): the input's 12 bytes with the payload type of byte 1 replaced and its marker kept. -/
def State.rtpHeader (s : State) (pt : Nat) : List Byte :=
  s.byte s.srcStart :: ((s.byte (s.srcStart + 1) &&& 0x80) ||| BitVec.ofNat 8 pt) :: s.bytes (s.srcStart + 2) 10

/-- The bytes of input frame i (R88). -/
def State.rtpInput (s : State) (d : Dir) (i : Nat) : List Byte :=
  s.bytes (s.srcStart + rtpHdr + rtpInFrame d * i) (rtpInFrame d)

/-! ### Regions of a command (R108, R110) -/

/-- The length of the destination region (R108). -/
def needOf (s : State) : Instr → Nat
  | .cencU => cencNeed s
  | .cencA => cencNeed s
  | .cdecU => cdecNeed s
  | .cdecA => cdecNeed s
  | .h2n => swapNeed s
  | .n2h => swapNeed s
  | .mix => if tableReadable s then mixNeed s else 0
  | .rtpdU d n => rtpNeed .dec (frameCount d n)
  | .rtpdA d n => rtpNeed .dec (frameCount d n)
  | .rtpeU d n => rtpNeed .enc (frameCount d n)
  | .rtpeA d n => rtpNeed .enc (frameCount d n)

/-- The regions MIX reads: the table and every valid channel. -/
def mixReads (s : State) : List Region :=
  s.tableRegion :: if tableReadable s then (s.channels.filter Channel.valid).map Channel.region else []

/-- The regions a command reads (R110). -/
def readRegions (s : State) : Instr → List Region
  | .cencU => [s.srcRegion]
  | .cencA => [s.srcRegion]
  | .cdecU => [s.srcRegion]
  | .cdecA => [s.srcRegion]
  | .h2n => [s.srcRegion]
  | .n2h => [s.srcRegion]
  | .mix => mixReads s
  | .rtpdU _ _ => [s.srcRegion]
  | .rtpdA _ _ => [s.srcRegion]
  | .rtpeU _ _ => [s.srcRegion]
  | .rtpeA _ _ => [s.srcRegion]

/-- The destination region of the running command; empty for an illegal word, which accesses nothing (R107). -/
def State.runningDst (s : State) : Region :=
  match decode s.hw s.latch.opWord with
  | .ok i => s.dstRegion (needOf s i)
  | .error _ => ⟨s.dstStart, 0⟩

/-- The capacity span `(D_ADDR, D_CAP)` of 20_memory.md R49. -/
def State.capacitySpan (s : State) : Region := ⟨s.dstStart, s.dstCapacity⟩

/-- The bytes that are any value while a command runs (R49): its destination region, and after host interference its whole
capacity span, since the region can then depend on bytes the host changed (log 13). -/
def State.unsettled (s : State) (a : Nat) : Bool :=
  s.runningDst.covers a || (s.tainted && s.capacitySpan.covers a)

/-- Every region of the running command (20_memory.md R49). -/
def State.runningRegions (s : State) : List Region :=
  match decode s.hw s.latch.opWord with
  | .ok i => s.dstRegion (needOf s i) :: readRegions s i
  | .error _ => []

end Sys2Proof.Machine
end

