-- ==== Sys2Proof/Machine/Companding.lean ====
section
/-! DEFINITION. The Companding Codec (40_companding.md): the sample functions R60–R63 and the commands R66–R69. -/

namespace Sys2Proof.Machine

/-! ### Sample functions -/

/-- `SEG_U` of R60. -/
def segU : List Nat := [0xFF, 0x1FF, 0x3FF, 0x7FF, 0xFFF, 0x1FFF, 0x3FFF, 0x7FFF]

/-- `SEG_A` of R61. -/
def segA : List Nat := [0x1F, 0x3F, 0x7F, 0xFF, 0x1FF, 0x3FF, 0x7FF, 0xFFF]

/-- The smallest segment whose end reaches the value; 8 when none does. -/
def segment (ends : List Nat) (v : Nat) : Nat := ends.findIdx fun e => v ≤ e

/-- `ULAW_ENC`, R60, on unbounded integers (00_scope.md R11). -/
def ulawEnc (x : Sample) : Byte :=
  let v := if x.toInt < 0 then (0x84 - x.toInt).toNat else (x.toInt + 0x84).toNat
  let mask := if x.toInt < 0 then 0x7F else 0xFF
  let s := segment segU v
  if s < 8 then BitVec.ofNat 8 (((s <<< 4) ||| ((v >>> (s + 3)) &&& 0xF)) ^^^ mask)
  else BitVec.ofNat 8 (0x7F ^^^ mask)

/-- `ALAW_ENC`, R61, with the arithmetic shift of R11. -/
def alawEnc (x : Sample) : Byte :=
  let y := x.toInt >>> 3
  let v := if y < 0 then (-y - 1).toNat else y.toNat
  let mask := if y < 0 then 0x55 else 0xD5
  let s := segment segA v
  let m := if s < 2 then (v >>> 1) &&& 0xF else (v >>> s) &&& 0xF
  if s < 8 then BitVec.ofNat 8 (((s <<< 4) ||| m) ^^^ mask) else BitVec.ofNat 8 (0x7F ^^^ mask)

/-- `ULAW_DEC`, R62, by the generator that gives every entry of ULAW_TABLE. -/
def ulawDec (c : Byte) : Sample :=
  let u := 0xFF - c.toNat
  let t : Int := (((((u &&& 0x0F) <<< 3) + 0x84) <<< ((u &&& 0x70) >>> 4) : Nat) : Int)
  BitVec.ofInt 16 (if u &&& 0x80 = 0 then t - 0x84 else 0x84 - t)

/-- `ALAW_DEC`, R63, by the generator that gives every entry of ALAW_TABLE. -/
def alawDec (c : Byte) : Sample :=
  let a := c.toNat ^^^ 0x55
  let t := (a &&& 0x0F) <<< 4
  let s := (a &&& 0x70) >>> 4
  let t : Int := ((if s = 0 then t + 8 else if s = 1 then t + 0x108 else (t + 0x108) <<< (s - 1) : Nat) : Int)
  BitVec.ofInt 16 (if a &&& 0x80 = 0 then -t else t)

/-- The encoder of a law (30_encoding.md R52). -/
def lawEnc : Law → Sample → Byte
  | .mu => ulawEnc
  | .a => alawEnc

/-- The decoder of a law. -/
def lawDec : Law → Byte → Sample
  | .mu => ulawDec
  | .a => alawDec

/-! ### Buffer commands -/

/-- The shape CENC, CDEC, H2N and N2H share: the first failing check is raised before any write (R104); otherwise the
output, a function of the source bytes, is written from latch.D_ADDR on and the command completes. No output byte can
change a source byte, since the regions are checked disjoint (log 16). engine.acc stays as it was, a DESIGN CHOICE where R36
leaves it unspecified (log 18). -/
def runBuffer (s : State) (checks : List (Option Failure)) (out : List Byte) (need : Nat) : Result :=
  match firstFailure checks with
  | some f => .next (s.raiseError f)
  | none => .next ((s.writeBytes s.dstStart out).complete need)

/-- The checks of R66, in the order of R105. -/
def cencChecks (s : State) : List (Option Failure) :=
  failIf (s.srcLength % 2 == 1) (.of .oddLength s.srcLength 0) :: srcCheck s
    :: (dstChecks s (cencNeed s) ++ [srcOverlapCheck s (cencNeed s)])

/-- The codes of the source samples, one after another (R66). -/
def cencOutput (law : Law) (s : State) : List Byte :=
  (List.range (cencNeed s)).map fun i => lawEnc law (s.sample (s.srcStart + 2 * i))

/-- The checks of R68, in the order of R105. -/
def cdecChecks (s : State) : List (Option Failure) :=
  srcCheck s :: (dstChecks s (cdecNeed s) ++ [srcOverlapCheck s (cdecNeed s)])

/-- The samples of the source codes, little-endian (R68). -/
def cdecOutput (law : Law) (s : State) : List Byte :=
  (List.range s.srcLength).flatMap fun i => halfBytes (lawDec law (s.byte (s.srcStart + i)))

/-- CENC under a law. -/
def cenc (law : Law) (s : State) : Result := runBuffer s (cencChecks s) (cencOutput law s) (cencNeed s)

/-- CDEC under a law. -/
def cdec (law : Law) (s : State) : Result := runBuffer s (cdecChecks s) (cdecOutput law s) (cdecNeed s)

/-- CENC.U, R66. -/
def execCencU (s : State) : Host.Outcome State Fault Refusal := cenc .mu s

/-- CENC.A, R67. -/
def execCencA (s : State) : Host.Outcome State Fault Refusal := cenc .a s

/-- CDEC.U, R68. -/
def execCdecU (s : State) : Host.Outcome State Fault Refusal := cdec .mu s

/-- CDEC.A, R69. -/
def execCdecA (s : State) : Host.Outcome State Fault Refusal := cdec .a s

end Sys2Proof.Machine
end

