-- ==== Sys2Proof/Machine/ByteOrder.lean ====
section
/-! DEFINITION. The Byte-Order Converter (41_byte_order.md). -/

namespace Sys2Proof.Machine

/-- `SWAP16`, R70: swap the bytes of every pair; a last odd byte, which no command passes, stays. -/
def swap16 : List Byte → List Byte
  | lo :: hi :: bs => hi :: lo :: swap16 bs
  | bs => bs

/-- The checks of R71, in the order of R105: TooShort before OddLength. -/
def swapChecks (s : State) : List (Option Failure) :=
  failIf (s.srcLength < 2) (.of .tooShort s.srcLength 0)
    :: failIf (s.srcLength % 2 == 1) (.of .oddLength s.srcLength 0) :: srcCheck s
    :: (dstChecks s (swapNeed s) ++ [srcOverlapCheck s (swapNeed s)])

/-- Both commands compute SWAP16 of the source bytes (R70). -/
def swapBuffer (s : State) : Result :=
  runBuffer s (swapChecks s) (swap16 (s.bytes s.srcStart s.srcLength)) (swapNeed s)

/-- H2N, R71. -/
def execH2n (s : State) : Host.Outcome State Fault Refusal := swapBuffer s

/-- N2H, R72. -/
def execN2h (s : State) : Host.Outcome State Fault Refusal := swapBuffer s

end Sys2Proof.Machine
end

