-- ==== Sys2Proof/Machine/Mixer.lean ====
section
/-! DEFINITION. The Channel Mixer (42_mixer.md). -/

namespace Sys2Proof.Machine

/-- One bit of the root: keep the trial value `k + 2^b` when its square times n still fits. -/
def rootBit (q n k b : Nat) : Nat := if (k + 2 ^ b) * (k + 2 ^ b) * n ≤ q then k + 2 ^ b else k

/-- Bits `b-1 .. 0` of the root, highest first. -/
def rootBits (q n : Nat) : Nat → Nat → Nat
  | 0, k => k
  | b + 1, k => rootBits q n b (rootBit q n k b)

/-- `isqrt_floor_div(q, n)` of 00_scope.md R11: the largest k with k*k*n ≤ q. -/
def isqrtFloorDiv (q n : Nat) : Nat := rootBits q n (q.log2 + 1) 0

/-- `SCALE(acc, a)`, R75, for each rounding the parameter MIX_ROUND allows. -/
def scale : MixRound → Int → Nat → Int
  | .trunc, acc, a => acc.sign * (isqrtFloorDiv (acc * acc).toNat a : Int)

/-- `clamp16` of R11. -/
def clamp16 (y : Int) : Int := min 32767 (max (-32768) y)

/-- The first channel, lowest index first, that a test rejects (R105, 92 D22). -/
def channelCheck (chs : List Channel) (bad : Channel → Bool) (f : Nat → Channel → Failure) : Option Failure :=
  chs.zipIdx.findSome? fun cj => failIf (cj.1.valid && bad cj.1) (f cj.2 cj.1)

/-- The checks of R76, in the order of R105. -/
def mixChecks (s : State) : List (Option Failure) :=
  [failIf (s.hw.maxChannels < s.srcLength) (.of .tooManyChannels s.srcLength s.hw.maxChannels),
    failIf (s.outOfRange s.tableRegion) (rangeFailure 2 s.srcStart),
    channelCheck s.channels (fun c => c.len % 2 == 1) (fun j c => .of .invalidChannelLength j c.len),
    channelCheck s.channels (fun c => s.outOfRange c.region) (fun j c => rangeFailure (0x100 + j) c.start)]
    ++ dstChecks s (mixNeed s) ++
  [failIf (s.tableRegion.overlaps (s.dstRegion (mixNeed s))) (.of .regionOverlap 2 0),
    channelCheck s.channels (fun c => c.region.overlaps (s.dstRegion (mixNeed s)))
      (fun j _ => .of .regionOverlap (0x100 + j) 0)]

/-- Output position i of the MixAccumulator (R76, R78): a 32-bit sum over the valid channels that reach i. -/
def mixSum (s : State) (chs : List Channel) (i : Nat) : BitVec 32 :=
  chs.foldl (fun acc c => if c.valid && decide (i < c.len / 2)
    then acc + (s.sample (c.start + 2 * i)).signExtend 32 else acc) 0

/-- The zero-initialised MixAccumulator filled with every sum (R36, R78). -/
def mixAccumulate (s : State) (chs : List Channel) : State :=
  { s with acc := (List.range (longest chs)).map (mixSum s chs) }

/-- Normalize, clip and lay out one accumulator (R76). -/
def mixSample (hw : Config) (act : Nat) (a : BitVec 32) : List Byte :=
  halfBytes (BitVec.ofInt 16 (clamp16 (scale hw.mixRound a.toInt act)))

/-- The mixing path of R76: the sums go to engine.acc, the output comes from it, and acc is unspecified afterwards
(R36; log 18). -/
def mixChannels (s : State) (chs : List Channel) : State :=
  let t := mixAccumulate s chs
  let u := (t.writeBytes t.dstStart (t.acc.flatMap (mixSample t.hw (activeCount t.hw chs)))).complete (2 * longest chs)
  { u with acc := Config.accOutsideMix u.draws, draws := u.draws + 1 }

/-- MIX after its checks: empty output, the single-channel copy (R77), or the mixing path. -/
def mixRun (s : State) : State :=
  if activeCount s.hw s.channels = 0 then s.complete 0
  else match s.channels with
    | [c] => (s.writeBytes s.dstStart (s.bytes c.start c.len)).complete c.len
    | chs => mixChannels s chs

/-- MIX, R76. An error, like the single-channel copy and the empty output, leaves engine.acc as it was: R36 leaves acc
unspecified outside a MIX command, so this is a DESIGN CHOICE (log 18). -/
def execMix (s : State) : Host.Outcome State Fault Refusal :=
  match firstFailure (mixChecks s) with
  | some f => .next (s.raiseError f)
  | none => .next (mixRun s)

end Sys2Proof.Machine
end

