-- ==== Sys2Proof/Machine/Rtp.lean ====
section
/-! DEFINITION. The RTP Payload Rewriter (43_rtp_rewriter.md) with the engine's side of the codec port (44_codec_port.md).
A command runs in turns: from acceptance to the hold on Acquire, and from each answer to the next hold or to completion. -/

namespace Sys2Proof.Machine

/-- The checks of R84 and R86, in the order of R105; the payload type is checked in the decode direction only. -/
def rtpChecks (d : Dir) (fc : Int) (s : State) : List (Option Failure) :=
  [failIf (fc ≤ 0) ⟨.invalidFrameCount, BitVec.ofInt 32 fc, 0⟩,
    srcCheck s,
    failIf (s.srcLength < rtpRequired d fc) (.of .packetTooShort (rtpRequired d fc) s.srcLength),
    failIf (s.rtpVersionField != rtpVersion) (.of .invalidVersion s.rtpVersionField 0),
    failIf (d == .dec && s.rtpTypeField != ptG729) (.of .payloadTypeMismatch ptG729 s.rtpTypeField)]
    ++ dstChecks s (rtpNeed d fc) ++ [srcOverlapCheck s (rtpNeed d fc)]

/-- The first turn: every check, then Acquire (R89, R91). While the answer to a request abandoned by a reset is out, that request
is the one R90 allows, so the engine does not issue Acquire yet and takes no step (log 10). -/
def rtpStart (d : Dir) (fc : Int) (s : State) : State :=
  match firstFailure (rtpChecks d fc s) with
  | some f => s.raiseError f
  | none => if s.abandoned = 0 then { s.issue (.acquire d) with phase := .run .acquiring } else s

/-- Hand input frame i to the codec on context h (R92, R93): its bytes as they are, or its decoded samples. -/
def rtpRequest (d : Dir) (law : Law) (h : Handle) (i : Nat) (s : State) : CodecRequest :=
  match d with
  | .dec => .decode h (s.rtpInput .dec i)
  | .enc => .encode h ((s.rtpInput .enc i).map (lawDec law))

/-- Send frame i, whose output will go to packet offset `off`, and hold. -/
def rtpSend (d : Dir) (law : Law) (h : Handle) (i off : Nat) (s : State) : State :=
  { s.issue (rtpRequest d law h i s) with phase := .run (.frame i off) }

/-- Acquire answered with a handle (R91): the context is held, the header is written (R81), frame 0 is sent. -/
def rtpAcquired (d : Dir) (law : Law) (h : Handle) (s : State) : State :=
  let t := { s.takeAnswer with ctx := some ⟨d, h⟩ }
  rtpSend d law h 0 rtpHdr (t.writeBytes t.dstStart (t.rtpHeader (ptOut d law)))

/-- The output bytes of an answered frame: the samples companded (R84) or the codec's own bytes (R86). -/
def rtpFrameOutput (law : Law) : Dir → CodecAnswer → Option (List Byte)
  | .dec, .pcm r => some (r.toList.map (lawEnc law))
  | .enc, .bits f => some f.bytes
  | _, _ => none

/-- A frame answered: its output is written, then the next frame is sent, or the context is released and the command
completes with the bytes written so far (R84, R86, R94). -/
def rtpFrameDone (d : Dir) (law : Law) (fc : Int) (c : Context) (i off : Nat) (out : List Byte) (s : State) : State :=
  let t := s.takeAnswer.writeBytes (s.dstStart + off) out
  if i + 1 < fc.toNat then rtpSend d law c.handle (i + 1) (off + out.length) t
  else t.releaseCtx.complete (off + out.length)

/-- The turn at a frame: FAIL releases and raises CodecFrameFailed(i) (R96); while the answer is out the engine holds
(R90). A context of NONE or an answer of another kind cannot stand here; the engine then holds too (log 24). -/
def rtpFrameTurn (d : Dir) (law : Law) (fc : Int) (i off : Nat) (s : State) : State :=
  match s.ctx, s.port with
  | _, .answered .fail => s.takeAnswer.raiseError (.of .codecFrameFailed i 0)
  | some c, .answered a =>
    match rtpFrameOutput law d a with
    | some out => rtpFrameDone d law fc c i off out s
    | none => s
  | _, _ => s

/-- The turn at the hold on Acquire: FAIL raises CodecInitFailed (R91). -/
def rtpAcquireTurn (d : Dir) (law : Law) (s : State) : State :=
  match s.port with
  | .answered (.handle h) => rtpAcquired d law h s
  | .answered .fail => s.takeAnswer.raiseError (.of .codecInitFailed 0 0)
  | _ => s

/-- One engine turn of an RTP command, at the position it has reached. engine.acc stays as it was, a DESIGN CHOICE where R36
leaves it unspecified (log 18). -/
def rtpTurn (d : Dir) (law : Law) (fc : Int) (s : State) : Result :=
  match s.phase with
  | .run .acquiring => .next (rtpAcquireTurn d law s)
  | .run (.frame i off) => .next (rtpFrameTurn d law fc i off s)
  | .run .start => .next (rtpStart d fc s)
  | .idle => .next (rtpStart d fc s)

/-- RTPD.U, R84. -/
def execRtpdU (fcdef : Bool) (fcnt : BitVec 16) (s : State) : Host.Outcome State Fault Refusal :=
  rtpTurn .dec .mu (frameCount fcdef fcnt) s

/-- RTPD.A, R85. -/
def execRtpdA (fcdef : Bool) (fcnt : BitVec 16) (s : State) : Host.Outcome State Fault Refusal :=
  rtpTurn .dec .a (frameCount fcdef fcnt) s

/-- RTPE.U, R86. -/
def execRtpeU (fcdef : Bool) (fcnt : BitVec 16) (s : State) : Host.Outcome State Fault Refusal :=
  rtpTurn .enc .mu (frameCount fcdef fcnt) s

/-- RTPE.A, R87. -/
def execRtpeA (fcdef : Bool) (fcnt : BitVec 16) (s : State) : Host.Outcome State Fault Refusal :=
  rtpTurn .enc .a (frameCount fcdef fcnt) s

end Sys2Proof.Machine
end

