-- ==== Sys2Proof/Machine/Dispatch.lean ====
section
/-! DEFINITION. One arm per command: its engine turn. -/

namespace Sys2Proof.Machine

def exec (i : Instr) (s : State) : Host.Outcome State Fault Refusal :=
  match i with
  | .cencU => Sys2Proof.Machine.execCencU s
  | .cencA => Sys2Proof.Machine.execCencA s
  | .cdecU => Sys2Proof.Machine.execCdecU s
  | .cdecA => Sys2Proof.Machine.execCdecA s
  | .h2n => Sys2Proof.Machine.execH2n s
  | .n2h => Sys2Proof.Machine.execN2h s
  | .mix => Sys2Proof.Machine.execMix s
  | .rtpdU d n => Sys2Proof.Machine.execRtpdU d n s
  | .rtpdA d n => Sys2Proof.Machine.execRtpdA d n s
  | .rtpeU d n => Sys2Proof.Machine.execRtpeU d n s
  | .rtpeA d n => Sys2Proof.Machine.execRtpeA d n s

end Sys2Proof.Machine
end

