-- ==== Sys2Proof/Machine/Engine.lean ====
section
/-! DEFINITION. The ENGINE's turn: the command in latch.OP_WORD is decoded and run (30_encoding.md R50, R56), and a result
that host interference has made unspecified is drawn (20_memory.md R49). -/

namespace Sys2Proof.Machine

/-- Free bytes for the offsets of the capacity span that BUF has. -/
def freeSpan (s : State) : List Byte :=
  (List.range (min s.dstCapacity (s.hw.memBytes - s.dstStart))).map fun k =>
    Config.interferedByte s.draws (s.dstStart + k)

/-- The result after host interference (R49, U4): any code of R101, any RES_LEN and ERR_INFO, any byte in the capacity
span, and nothing written outside it. -/
def scramble (s : State) : State :=
  let t := s.writeBytes s.dstStart (freeSpan s)
  { t with
    csr := t.csr.completed (completionAt (Config.interferedCode t.draws)) (Config.interferedResLen t.draws)
      (Config.interferedInfo0 t.draws) (Config.interferedInfo1 t.draws)
    tainted := false
    draws := t.draws + 1 }

/-- A turn that completed a command the host interfered with leaves the unspecified result. -/
def settle (s : State) : State := if s.tainted && s.phase == .idle then scramble s else s

/-- `settle` on the outcome of a meaning. -/
def settleResult : Result → Result
  | .next t => .next (settle t)
  | .fault f => .fault f
  | .refused r => .refused r

/-- The turn of a running command: an illegal word completes with IllegalCommand (R107). -/
def runTurn (s : State) : Result :=
  match decode s.hw s.latch.opWord with
  | .ok i => settleResult (exec i s)
  | .error _ => .next (settle s.illegal)

/-- One engine turn: nothing while reset is asserted (R120) or between commands (R132). -/
def engineTurn (s : State) : Result :=
  if s.inReset then .next s
  else match s.phase with
    | .idle => .next s
    | .run _ => runTurn s

end Sys2Proof.Machine
end

