-- ==== Sys2Proof/Machine/HostPort.lean ====
section
/-! DEFINITION. The host port (20_memory.md R43, R44, R46, R49; 10_state.md R22–R34). -/

namespace Sys2Proof.Machine

/-- The bytes of an access. -/
def Width.bytes : Width → Nat
  | .w8 => 1
  | .w16 => 2
  | .w32 => 4

/-- Where a host access goes. -/
inductive Target where
  | csr (off : Nat)
  | buf (a : Nat)
  | busError
  deriving DecidableEq, Repr

/-- The host address map (R44) with the alignment and width rules (R43). -/
def hostTarget (hw : Config) (w : Width) (off : Nat) : Target :=
  if off < 0x10000 then
    if w = .w32 ∧ off % 4 = 0 then .csr off else .busError
  else if hw.bufBase ≤ off ∧ off + w.bytes ≤ hw.bufBase + hw.memBytes ∧ off % w.bytes = 0 then .buf (off - hw.bufBase)
  else .busError

/-- A CSR read (R22, R23); no read has a side effect. -/
def State.readCsr (s : State) (off : Nat) : Word :=
  match off with
  | 0x00 => idWord s.hw
  | 0x04 => ctrlWord s.csr
  | 0x08 => statusWord s.csr
  | 0x0C => s.csr.cmd
  | 0x10 => s.csr.srcAddr
  | 0x14 => s.csr.srcLen
  | 0x18 => s.csr.dstAddr
  | 0x1C => s.csr.dstCap
  | 0x20 => s.csr.resLen
  | 0x24 => s.csr.errInfo0
  | 0x28 => s.csr.errInfo1
  | 0x2C => memszWord s.hw
  | _ => 0

/-- A CSR write (R22, R23, R46): RO and reserved offsets ignore it. -/
def State.writeCsr (s : State) (off : Nat) (v : Word) : State :=
  match off with
  | 0x04 => { s with csr := { s.csr with ie := v.getLsbD 0 } }
  | 0x08 => { s with csr := writeStatus v s.csr }
  | 0x0C => s.writeCmd v
  | 0x10 => { s with csr := { s.csr with srcAddr := v } }
  | 0x14 => { s with csr := { s.csr with srcLen := v } }
  | 0x18 => { s with csr := { s.csr with dstAddr := v } }
  | 0x1C => { s with csr := { s.csr with dstCap := v } }
  | _ => s

/-- A byte as the host reads it: any value where a running command leaves it unsettled (R49, U5), else BUF's. -/
def State.hostByte (s : State) (a : Nat) : Byte :=
  if s.csr.busy && s.unsettled a then Config.busyRead s.draws a else s.byte a

/-- A BUF read of 8, 16 or 32 bits, little-endian (R40). -/
def State.hostRead (s : State) (w : Width) (a : Nat) : Word :=
  match w with
  | .w8 => (s.hostByte a).setWidth 32
  | .w16 => (s.hostByte (a + 1) ++ s.hostByte a).setWidth 32
  | .w32 => s.hostByte (a + 3) ++ s.hostByte (a + 2) ++ s.hostByte (a + 1) ++ s.hostByte a

/-- The bytes a BUF write stores, least significant first (R40). -/
def hostBytes (w : Width) (v : Word) : List Byte :=
  [v.extractLsb' 0 8, v.extractLsb' 8 8, v.extractLsb' 16 8, v.extractLsb' 24 8].take w.bytes

/-- The write falls into a region of the running command (R49). -/
def State.interferes (s : State) (a n : Nat) : Bool :=
  s.csr.busy && s.runningRegions.any fun r => r.overlaps ⟨a, n⟩

/-- A BUF write: lands as one event; inside a region of the running command it also makes the result unspecified. -/
def State.hostWrite (s : State) (w : Width) (a : Nat) (v : Word) : State :=
  { s.writeBytes a (hostBytes w v) with tainted := s.tainted || s.interferes a w.bytes }

/-- One host transaction. While the reset input is asserted every access is a bus error (R120). A bus error changes
nothing in the block (R115). -/
def hostTurn (t : HostTxn) (s : State) : State :=
  if s.inReset then { s with busReply := some .busError }
  else match t with
    | .read w off =>
      match hostTarget s.hw w off with
      | .csr o => { s with busReply := some (.data (s.readCsr o)) }
      | .buf a => { s with busReply := some (.data (s.hostRead w a)), draws := s.draws + 1 }
      | .busError => { s with busReply := some .busError }
    | .write w off v =>
      match hostTarget s.hw w off with
      | .csr o => { s.writeCsr o v with busReply := some .written }
      | .buf a => { s.hostWrite w a v with busReply := some .written }
      | .busError => { s with busReply := some .busError }

end Sys2Proof.Machine
end

