-- ==== Sys2Proof/Machine/ResetEvent.lean ====
section
/-! DEFINITION. The reset event (70_reset_and_hazards.md R120–R123). -/

namespace Sys2Proof.Machine

/-- How many answers are still to come. -/
def Port.outstanding : Port → Nat
  | .quiet => 0
  | .waiting _ => 1
  | .answered _ => 0

/-- The Release for a handle that the CODEC has answered and no engine turn has taken yet: a successful Acquire is released
exactly once, at a reset too (R89, R94). R123 does not name this moment; DEDUCED (log 27). -/
def Port.untakenRelease : Port → List CodecRequest
  | .quiet => []
  | .waiting _ => []
  | .answered .fail => []
  | .answered (.handle h) => [.release h]
  | .answered (.pcm _) => []
  | .answered (.bits _) => []

/-- The block after a reset: a held context is released, and so is a handle still in the port (log 27), an outstanding
answer will be discarded (R123; log 10), everything of the block is as in `State.reset` (R121), and BUF's contents are drawn
anew (R122). The CODEC's memory (R99) and what the outside still does are kept. The port is quiet, and no new request
goes out before an abandoned answer has arrived (R90; log 10). -/
def resetBlock (s : State) : State :=
  { State.reset with
    hw := s.hw
    codecLog := s.releaseCtx.codecLog ++ s.port.untakenRelease
    abandoned := s.abandoned + s.port.outstanding
    decHist := s.decHist
    encHist := s.encHist
    busReply := s.busReply
    epoch := s.epoch + 1
    draws := s.draws
    inputs := s.inputs }

/-- The PLATFORM asserts the reset input: from now on no access is answered and the engine takes no step (R120). -/
def resetAssertTurn (s : State) : State := { s with inReset := true }

/-- The PLATFORM deasserts the reset input: "Its deassertion puts the block in the state of rule R121". -/
def resetDeassertTurn (s : State) : State := if s.inReset then resetBlock s else s

end Sys2Proof.Machine
end

