-- ==== Sys2Proof/Machine/Step.lean ====
section
/-! DEFINITION. One step: the agent that the input list names moves (10_state.md R20; log 2). -/

namespace Sys2Proof.Machine

/-- The machine's step. With an empty input list the ENGINE takes its turn. -/
def step (s : State) : Host.Outcome State Fault Refusal :=
  match s.inputs with
  | [] => engineTurn s
  | .engine :: rest => engineTurn { s with inputs := rest }
  | .host t :: rest => .next (hostTurn t { s with inputs := rest })
  | .codec ok :: rest => .next (codecTurn ok { s with inputs := rest })
  | .codecLate :: rest => .next (codecLateTurn { s with inputs := rest })
  | .resetAssert :: rest => .next (resetAssertTurn { s with inputs := rest })
  | .resetDeassert :: rest => .next (resetDeassertTurn { s with inputs := rest })

/-- The command word `w` placed where the next step runs it: the machine has no program memory, so the word has been
accepted by a CMD write (R27) and the ENGINE moves next, out of reset, with the codec port quiet and no answer abandoned
(log 15). -/
def State.withFetchWord (s : State) (nbits w : Nat) : State :=
  { s.accept (BitVec.ofNat 32 (w % 2 ^ nbits)) with
    inReset := false
    ctx := none
    port := .quiet
    abandoned := 0
    inputs := .engine :: s.inputs }

end Sys2Proof.Machine
end

