-- ==== Sys2Proof/Safety.lean ====
section
/-! DEFINITION. The terms claims are stated in: regions as propositions, when a command's checks all pass, what a
command leaves unchanged, and the invariants of the machine. -/

namespace Sys2Proof.Machine

/-! ### Regions (00_scope.md R13) -/

/-- `InRange(a, n)`. -/
abbrev InRange (s : State) (a n : Nat) : Prop := n = 0 ∨ a + n ≤ s.hw.memBytes

/-- `Overlap((a, n), (b, m))`. -/
abbrev Overlap (a n b m : Nat) : Prop := 0 < n ∧ 0 < m ∧ a < b + m ∧ b < a + n

/-- The destination `(D_ADDR, need)` fits: capacity and range (60_exceptions.md R108, R109). -/
abbrev DstFits (s : State) (need : Nat) : Prop := need ≤ s.dstCapacity ∧ InRange s s.dstStart need

/-- Source in range, destination fitting, and the two disjoint: the region checks of CENC, CDEC, H2N, N2H and RTP. -/
abbrev BufferReady (s : State) (need : Nat) : Prop :=
  InRange s s.srcStart s.srcLength ∧ DstFits s need ∧ ¬ Overlap s.srcStart s.srcLength s.dstStart need

/-! ### MIX (42_mixer.md) -/

/-- Every check of R76 passes. -/
abbrev MixReady (s : State) : Prop :=
  s.srcLength ≤ s.hw.maxChannels ∧ InRange s s.srcStart (8 * s.srcLength) ∧
  (∀ j < s.srcLength, (s.channel j).valid = true →
    (s.channel j).len % 2 = 0 ∧ InRange s (s.channel j).start (s.channel j).len ∧
    ¬ Overlap (s.channel j).start (s.channel j).len s.dstStart (mixNeed s)) ∧
  DstFits s (mixNeed s) ∧ ¬ Overlap s.srcStart (8 * s.srcLength) s.dstStart (mixNeed s)

/-- `need` of R76, from its pseudocode: 0 when no channel is active (R74), the length of an only channel, else twice the longest
valid channel in samples. -/
def mixOutputLength (s : State) : Nat :=
  if ∀ j < s.srcLength, (s.channel j).valid = true → s.hw.mixCountEmpty = false ∧ (s.channel j).len = 0 then 0
  else if s.srcLength = 1 then (s.channel 0).len
  else 2 * ((List.range s.srcLength).map fun j =>
    if (s.channel j).valid then (s.channel j).len / 2 else 0).foldr max 0

/-- The exact sum at output position i (R76, R78), over the integers. -/
def mixExact (s : State) (i : Nat) : Int :=
  ((List.range s.srcLength).map fun j =>
    if (s.channel j).valid = true ∧ i < (s.channel j).len / 2
    then (s.sample ((s.channel j).start + 2 * i)).toInt else 0).sum

/-! ### RTP (43_rtp_rewriter.md) -/

/-- An RTP command's direction, law and frame count (30_encoding.md R51–R53). -/
def rtpCommand : Instr → Option (Dir × Law × Int)
  | .cencU => none
  | .cencA => none
  | .cdecU => none
  | .cdecA => none
  | .h2n => none
  | .n2h => none
  | .mix => none
  | .rtpdU d n => some (.dec, .mu, frameCount d n)
  | .rtpdA d n => some (.dec, .a, frameCount d n)
  | .rtpeU d n => some (.enc, .mu, frameCount d n)
  | .rtpeA d n => some (.enc, .a, frameCount d n)

/-- Every check of R84 (R86) passes. -/
abbrev RtpReady (s : State) (d : Dir) (fc : Int) : Prop :=
  0 < fc ∧ BufferReady s (rtpNeed d fc) ∧ rtpRequired d fc ≤ s.srcLength ∧ s.rtpVersionField = 2 ∧
  (d = .dec → s.rtpTypeField = 18)

/-- The command that runs (latch.OP_WORD, 10_state.md R35), when it is an RTP command. -/
def State.runningRtp (s : State) : Option (Dir × Law × Int) :=
  match decode s.hw s.latch.opWord with
  | .ok i => rtpCommand i
  | .error _ => none

/-! ### Frames -/

/-- What no engine turn of any command changes: the parameters, CTRL, REJ, CMD, the operand registers, the latch, the reset
input, the CODEC's memory, and the model's record of events and draws of BUF. -/
def TurnFrame (s t : State) : Prop :=
  t.hw = s.hw ∧ t.csr.ie = s.csr.ie ∧ t.csr.rej = s.csr.rej ∧ t.csr.cmd = s.csr.cmd ∧ t.csr.srcAddr = s.csr.srcAddr ∧
  t.csr.srcLen = s.csr.srcLen ∧ t.csr.dstAddr = s.csr.dstAddr ∧ t.csr.dstCap = s.csr.dstCap ∧ t.latch = s.latch ∧
  t.inReset = s.inReset ∧ t.decHist = s.decHist ∧ t.encHist = s.encHist ∧ t.abandoned = s.abandoned ∧
  t.busReply = s.busReply ∧ t.tainted = s.tainted ∧ t.epoch = s.epoch ∧ t.inputs = s.inputs

/-- A turn that also leaves the codec side and the accumulator alone, as every buffer command does (the accumulator by the
model's choice, log 18). -/
def BufferFrame (s t : State) : Prop :=
  TurnFrame s t ∧ t.ctx = s.ctx ∧ t.port = s.port ∧ t.codecLog = s.codecLog ∧ t.acc = s.acc ∧ t.draws = s.draws

/-- Successful completion with a length (60_exceptions.md R102). -/
def Succeeded (t : State) (len : Nat) : Prop :=
  t.csr.busy = false ∧ t.csr.done = true ∧ t.csr.err = 0x00 ∧ t.csr.resLen = BitVec.ofNat 32 len ∧
  t.csr.errInfo0 = 0 ∧ t.csr.errInfo1 = 0 ∧ t.phase = .idle

/-- Every BUF byte outside `(a, n)` reads as before. -/
def BytesKeptOutside (s t : State) (a n : Nat) : Prop := ∀ x, x < a ∨ a + n ≤ x → t.byte x = s.byte x

/-! ### Invariants -/

/-- BUF is in canonical form. -/
abbrev State.MemoryCanonical (s : State) : Prop := Memory.wf s.buf = true

/-- Every written address is one of BUF's (10_state.md R37). -/
abbrev State.MemoryInBuf (s : State) : Prop := ∀ c ∈ s.buf, c.1 < s.hw.memBytes

/-- STATUS agrees with the sequencer: BUSY = 1 exactly when the phase is RUN (R36), a running command shows no result yet
(70_reset_and_hazards.md R129), and ERR holds a code of R101. -/
def State.StatusAgrees (s : State) : Prop :=
  (s.csr.busy = true ↔ s.phase ≠ .idle) ∧
  (s.csr.busy = true → s.csr.done = false ∧ s.csr.err = 0 ∧ s.csr.resLen = 0 ∧ s.csr.errInfo0 = 0 ∧ s.csr.errInfo1 = 0) ∧
  isCompletionValue s.csr.err = true

/-- The port while the engine is at the hold on Acquire (R90, R91). -/
def portAtAcquire (d : Dir) : Port → Prop
  | .quiet => False
  | .waiting r => r = .acquire d
  | .answered a => a = .fail ∨ ∃ h, a = .handle h

/-- The port while the engine is at the hold on a frame of context h (R90, R92, R93). -/
def portAtFrame (d : Dir) (h : Handle) : Port → Prop
  | .quiet => False
  | .waiting r => match d with
    | .dec => ∃ f : List Byte, r = .decode h f ∧ f.length = 10
    | .enc => ∃ p : List Sample, r = .encode h p ∧ p.length = 80
  | .answered a => a = .fail ∨ match d with
    | .dec => ∃ r, a = .pcm r
    | .enc => ∃ f, a = .bits f

/-- The sequencer's position agrees with the context slot, the codec port and the command (R36, R89, R91): a context is held
exactly while frames are exchanged, a request is out exactly at a hold, and past the checks the destination fits. -/
def State.Sequenced (s : State) : Prop :=
  match s.phase with
  | .idle => s.ctx = none ∧ s.port = .quiet
  | .run .start => s.ctx = none ∧ s.port = .quiet
  | .run .acquiring => s.ctx = none ∧ ∃ d law fc, s.runningRtp = some (d, law, fc) ∧ 0 < fc ∧
      DstFits s (rtpNeed d fc) ∧ portAtAcquire d s.port
  | .run (.frame i off) => ∃ d law fc h, s.runningRtp = some (d, law, fc) ∧ i < fc.toNat ∧
      DstFits s (rtpNeed d fc) ∧ s.ctx = some ⟨d, h⟩ ∧ off ≤ rtpHdr + rtpOutFrame d * i ∧
      (d = .dec → off = rtpHdr + cmpFrame * i) ∧ portAtFrame d h s.port

/-- At most one request is outstanding (R90), one abandoned by a reset included: while one of those is out the port is quiet. -/
def State.OneOutstanding (s : State) : Prop :=
  s.abandoned + s.port.outstanding ≤ 1 ∧ (s.port ≠ .quiet → s.abandoned = 0)

/-- The machine's invariant. -/
def State.Inv (s : State) : Prop :=
  s.MemoryCanonical ∧ s.MemoryInBuf ∧ s.StatusAgrees ∧ s.Sequenced ∧ s.OneOutstanding

end Sys2Proof.Machine
end

