-- ==== Sys2Proof/Certificates/Slice0/Obligations.lean ====
section
/-! DEFINITION. The statements for the provers, from the numbered rules of spec/. Region checks are the propositions of
Safety.lean; BUF is read through `State.byte`. Wherever a statement says that an engine turn, an acceptance, a codec answer or an
assertion of reset leaves engine.acc as it was, that is the model's choice: R36 leaves acc unspecified outside a MIX command
(log 18). -/

open Sys2Proof Sys2Proof.Machine

/-! ### Encoding (30_encoding.md) -/

/-- Words of every family, written out from R55 and 95_test_vectors.md §2.1. -/
def Obligations.DecodeOfTableWords : Prop :=
  decode Config.default 0x00000001 = .ok .cencU ∧ decode Config.default 0x00000011 = .ok .cencA ∧
  decode Config.default 0x00000002 = .ok .cdecU ∧ decode Config.default 0x00000012 = .ok .cdecA ∧
  decode Config.default 0x00000003 = .ok .h2n ∧ decode Config.default 0x00000004 = .ok .n2h ∧
  decode Config.default 0x00000005 = .ok .mix ∧
  decode Config.default 0x00000026 = .ok (.rtpdU true 0) ∧ decode Config.default 0x00000036 = .ok (.rtpdA true 0) ∧
  decode Config.default 0x80000007 = .ok (.rtpeU false 0x8000) ∧
  decode Config.default 0xFFFF0017 = .ok (.rtpeA false 0xFFFF) ∧
  decode Config.default 0x00000000 = .error .unusedOp ∧ decode Config.default 0x00000021 = .error .compandBits ∧
  decode Config.default 0x00010003 = .error .plainBits ∧ decode Config.default 0x00000040 = .error .reservedBits

/-- Decoding an encoded command gives it back, for every parameter choice and every operand value. -/
def Obligations.DecodeOfEncodeIsIdentity : Prop :=
  ∀ hw i, wellFormed hw i = true → decode hw (encode i) = .ok i

/-- A word that decodes is the encoding of the command it decodes to, and the block has that command. R53 and R56 ignore FCNT
when FCDEF = 1; that the command keeps those bits, so that the word comes back whole, is the model's choice (log 19). -/
def Obligations.EncodeOfDecodeIsIdentity : Prop :=
  ∀ hw w i, decode hw w = .ok i → encode i = w ∧ wellFormed hw i = true

/-- A word is legal exactly when a row of R55 matches it, the A-law RTP rows only when ALAW_RTP_SUPPORTED = 1. -/
def Obligations.LegalWordsAreTheTableRows : Prop :=
  ∀ (hw : Config) (w : Word), (∃ i, decode hw w = .ok i) ↔
    (w = 0x00000001 ∨ w = 0x00000011 ∨ w = 0x00000002 ∨ w = 0x00000012 ∨ w = 0x00000003 ∨ w = 0x00000004 ∨
      w = 0x00000005 ∨ w &&& 0x0000FFDF = 0x00000006 ∨ w &&& 0x0000FFDF = 0x00000007 ∨
      (hw.alawRtp = true ∧ (w &&& 0x0000FFDF = 0x00000016 ∨ w &&& 0x0000FFDF = 0x00000017)))

/-- R83: the frame count of an RTPD or RTPE word is 2 when bit 5 is set, else bits [31:16] as a signed number (R53), so at most
32767; a count that is not positive completes with InvalidFrameCount, the count mod 2^32 and 0, and no byte or request. -/
def Obligations.FrameCountOfRtpWord : Prop :=
  ∀ (hw : Config) (w : Word) (i : Instr) (d : Dir) (law : Law) (fc : Int),
    decode hw w = .ok i → rtpCommand i = some (d, law, fc) →
      (fc = if w.getLsbD 5 then 2 else (w.extractLsb' 16 16).toInt) ∧ fc ≤ 32767 ∧
      ∀ s : State, s.phase = .run .start → s.ctx = none → fc ≤ 0 → ∃ t, exec i s = .next t ∧
        t.csr = { s.csr with
          err := 0x07, resLen := 0, errInfo0 := t.csr.errInfo0, errInfo1 := 0, busy := false, done := true } ∧
        (t.csr.errInfo0.toNat : Int) = fc % 2 ^ 32 ∧ t.phase = .idle ∧ t.buf = s.buf ∧ t.codecLog = s.codecLog

/-! ### Sample functions (40_companding.md, 41_byte_order.md, 42_mixer.md) -/

/-- R64, which the spec derives: every A-law code round-trips, every μ-law code but 0x7F does, and 0x7F decodes to 0, which
encodes to 0xFF. The decode tables are the spec's general knowledge (log 21). -/
def Obligations.CompandingRoundTripOnCodes : Prop :=
  (∀ c : Byte, alawEnc (alawDec c) = c) ∧ (∀ c : Byte, c ≠ 0x7F → ulawEnc (ulawDec c) = c) ∧
  ulawDec 0x7F = 0 ∧ ulawEnc 0 = 0xFF

/-- R65, which the spec derives: decoding the code of any sample gives it back within the step of the code's segment, in
both laws. The decode tables are the spec's general knowledge (log 21). -/
def Obligations.CompandingErrorWithinStep : Prop :=
  ∀ x : Sample,
    ((ulawDec (ulawEnc x)).toInt - x.toInt).natAbs ≤ 2 ^ ((((~~~(ulawEnc x)).toNat >>> 4) &&& 7) + 3) ∧
    ((alawDec (alawEnc x)).toInt - x.toInt).natAbs ≤
      (if (((alawEnc x).toNat ^^^ 0x55) >>> 4) &&& 7 < 2 then 16
        else 2 ^ (((((alawEnc x).toNat ^^^ 0x55) >>> 4) &&& 7) + 3))

/-- What the spec derives in R60, and for A-law follows from R61: bit 7 of a code is 1 exactly for non-negative samples, and
the μ-law clamp gives 0x80 and 0x00. -/
def Obligations.CodeSignBitAndClamp : Prop :=
  ∀ x : Sample, ((ulawEnc x).getLsbD 7 = true ↔ 0 ≤ x.toInt) ∧ ((alawEnc x).getLsbD 7 = true ↔ 0 ≤ x.toInt) ∧
    (32636 ≤ x.toInt → ulawEnc x = 0x80) ∧ (x.toInt ≤ -32636 → ulawEnc x = 0x00)

/-- R70: SWAP16 moves every pair's bytes across, keeps the length, and is its own inverse. R70 speaks of even lengths; what
swap16 does with a last odd byte is the model's own totality (log 28). -/
def Obligations.SwapMovesPairsAndIsSelfInverse : Prop :=
  ∀ b : List Byte, (swap16 b).length = b.length ∧ swap16 (swap16 b) = b ∧
    ∀ k, 2 * k + 1 < b.length → (swap16 b)[2 * k]? = b[2 * k + 1]? ∧ (swap16 b)[2 * k + 1]? = b[2 * k]?

/-- R75 with R11: SCALE(acc, a) has acc's sign, and its magnitude is the largest k with k*k*a ≤ acc*acc. -/
def Obligations.ScaleTruncatesTheQuotient : Prop :=
  ∀ (acc : Int) (a : Nat), 1 ≤ a → ∃ k : Nat, scale .trunc acc a = acc.sign * (k : Int) ∧
    (k : Int) * k * a ≤ acc * acc ∧ acc * acc < ((k : Int) + 1) * ((k : Int) + 1) * a

/-- R78: within the channel bound no 32-bit addition overflows: the accumulator is the exact sum. -/
def Obligations.AccumulatorIsTheExactSum : Prop :=
  ∀ (s : State) (i : Nat), s.srcLength ≤ 65536 → (mixSum s s.channels i).toInt = mixExact s i

/-! ### Compand commands (R66–R69) -/

/-- CENC.U and CENC.A complete: when n is even and the regions pass, each code stands where it should, RES_LEN = n/2, and
nothing else changes.
That engine.acc stays as it was is the model's choice (log 18). -/
def Obligations.CencEncodesEverySample : Prop :=
  ∀ (s : State) (i : Instr) (law : Law), (i = .cencU ∧ law = .mu) ∨ (i = .cencA ∧ law = .a) →
    s.srcLength % 2 = 0 → BufferReady s (s.srcLength / 2) →
    ∃ t, exec i s = .next t ∧
      (∀ k < s.srcLength / 2, t.byte (s.dstStart + k) = lawEnc law (s.sample (s.srcStart + 2 * k))) ∧
      BytesKeptOutside s t s.dstStart (s.srcLength / 2) ∧ Succeeded t (s.srcLength / 2) ∧ BufferFrame s t

/-- CENC reports the first failing check, in the order of R105, and does nothing else.
That engine.acc stays as it was is the model's choice (log 18). -/
def Obligations.CencReportsTheFirstError : Prop :=
  ∀ (s : State) (i : Instr), i = .cencU ∨ i = .cencA →
    (s.srcLength % 2 = 1 → exec i s = .next (s.raiseError (.of .oddLength s.srcLength 0))) ∧
    (s.srcLength % 2 = 0 →
      (¬ InRange s s.srcStart s.srcLength →
        exec i s = .next (s.raiseError (.of .bufferOutOfRange 0 s.srcStart))) ∧
      (InRange s s.srcStart s.srcLength → s.dstCapacity < s.srcLength / 2 →
        exec i s = .next (s.raiseError (.of .outputTooSmall (s.srcLength / 2) s.dstCapacity))) ∧
      (InRange s s.srcStart s.srcLength → s.srcLength / 2 ≤ s.dstCapacity →
        ¬ InRange s s.dstStart (s.srcLength / 2) →
        exec i s = .next (s.raiseError (.of .bufferOutOfRange 1 s.dstStart))) ∧
      (InRange s s.srcStart s.srcLength → DstFits s (s.srcLength / 2) →
        Overlap s.srcStart s.srcLength s.dstStart (s.srcLength / 2) →
        exec i s = .next (s.raiseError (.of .regionOverlap 0 0))))

/-- CDEC.U and CDEC.A complete: every code's sample stands little-endian where it should, RES_LEN = 2n, nothing else changes.
The decode tables are the spec's general knowledge (log 21).
That engine.acc stays as it was is the model's choice (log 18). -/
def Obligations.CdecDecodesEveryCode : Prop :=
  ∀ (s : State) (i : Instr) (law : Law), (i = .cdecU ∧ law = .mu) ∨ (i = .cdecA ∧ law = .a) →
    BufferReady s (2 * s.srcLength) →
    ∃ t, exec i s = .next t ∧
      (∀ k < s.srcLength, t.sample (s.dstStart + 2 * k) = lawDec law (s.byte (s.srcStart + k))) ∧
      BytesKeptOutside s t s.dstStart (2 * s.srcLength) ∧ Succeeded t (2 * s.srcLength) ∧ BufferFrame s t

/-- CDEC reports the first failing check, in the order of R105, and does nothing else.
That engine.acc stays as it was is the model's choice (log 18). -/
def Obligations.CdecReportsTheFirstError : Prop :=
  ∀ (s : State) (i : Instr), i = .cdecU ∨ i = .cdecA →
    (¬ InRange s s.srcStart s.srcLength →
      exec i s = .next (s.raiseError (.of .bufferOutOfRange 0 s.srcStart))) ∧
    (InRange s s.srcStart s.srcLength → s.dstCapacity < 2 * s.srcLength →
      exec i s = .next (s.raiseError (.of .outputTooSmall (2 * s.srcLength) s.dstCapacity))) ∧
    (InRange s s.srcStart s.srcLength → 2 * s.srcLength ≤ s.dstCapacity → ¬ InRange s s.dstStart (2 * s.srcLength) →
      exec i s = .next (s.raiseError (.of .bufferOutOfRange 1 s.dstStart))) ∧
    (InRange s s.srcStart s.srcLength → DstFits s (2 * s.srcLength) →
      Overlap s.srcStart s.srcLength s.dstStart (2 * s.srcLength) →
      exec i s = .next (s.raiseError (.of .regionOverlap 0 0)))

/-! ### Byte-order commands (R71, R72) -/

/-- H2N and N2H complete: every pair's bytes are exchanged, RES_LEN = n.
That engine.acc stays as it was is the model's choice (log 18). -/
def Obligations.SwapCommandsExchangeEveryPair : Prop :=
  ∀ (s : State) (i : Instr), i = .h2n ∨ i = .n2h →
    2 ≤ s.srcLength → s.srcLength % 2 = 0 → BufferReady s s.srcLength →
    ∃ t, exec i s = .next t ∧
      (∀ k < s.srcLength / 2, t.byte (s.dstStart + 2 * k) = s.byte (s.srcStart + 2 * k + 1) ∧
        t.byte (s.dstStart + 2 * k + 1) = s.byte (s.srcStart + 2 * k)) ∧
      BytesKeptOutside s t s.dstStart s.srcLength ∧ Succeeded t s.srcLength ∧ BufferFrame s t

/-- H2N and N2H report the first failing check, TooShort before OddLength, in the order of R105.
That engine.acc stays as it was is the model's choice (log 18). -/
def Obligations.SwapCommandsReportTheFirstError : Prop :=
  ∀ (s : State) (i : Instr), i = .h2n ∨ i = .n2h →
    (s.srcLength < 2 → exec i s = .next (s.raiseError (.of .tooShort s.srcLength 0))) ∧
    (2 ≤ s.srcLength → s.srcLength % 2 = 1 → exec i s = .next (s.raiseError (.of .oddLength s.srcLength 0))) ∧
    (2 ≤ s.srcLength → s.srcLength % 2 = 0 →
      (¬ InRange s s.srcStart s.srcLength →
        exec i s = .next (s.raiseError (.of .bufferOutOfRange 0 s.srcStart))) ∧
      (InRange s s.srcStart s.srcLength → s.dstCapacity < s.srcLength →
        exec i s = .next (s.raiseError (.of .outputTooSmall s.srcLength s.dstCapacity))) ∧
      (InRange s s.srcStart s.srcLength → s.srcLength ≤ s.dstCapacity → ¬ InRange s s.dstStart s.srcLength →
        exec i s = .next (s.raiseError (.of .bufferOutOfRange 1 s.dstStart))) ∧
      (InRange s s.srcStart s.srcLength → DstFits s s.srcLength →
        Overlap s.srcStart s.srcLength s.dstStart s.srcLength →
        exec i s = .next (s.raiseError (.of .regionOverlap 0 0))))

/-! ### MIX (R73–R79) -/

/-- MIX with two or more entries and an active channel completes: every output sample is the clipped, scaled exact sum,
RES_LEN = 2L. Of the engine's own state acc and the model's draw counter change (R36; log 18). -/
def Obligations.MixWritesTheScaledSums : Prop :=
  ∀ s : State, s.hw.maxChannels ≤ 65536 → MixReady s → s.srcLength ≠ 1 → 0 < activeCount s.hw s.channels →
    ∃ t, exec .mix s = .next t ∧
      (∀ k < longest s.channels, (t.sample (s.dstStart + 2 * k)).toInt =
        clamp16 (scale .trunc (mixExact s k) (activeCount s.hw s.channels))) ∧
      BytesKeptOutside s t s.dstStart (2 * longest s.channels) ∧ Succeeded t (2 * longest s.channels) ∧
      TurnFrame s t ∧ t.ctx = s.ctx ∧ t.port = s.port ∧ t.codecLog = s.codecLog

/-- R77: one valid channel is copied byte for byte, without scaling or clipping, and nothing else changes.
That engine.acc stays as it was here is no part of R76 or R77: R36 leaves it unspecified, and it is the model's choice (log 18). -/
def Obligations.MixCopiesASingleChannel : Prop :=
  ∀ s : State, MixReady s → s.srcLength = 1 → 0 < activeCount s.hw s.channels →
    ∃ t, exec .mix s = .next t ∧
      (∀ k < (s.channel 0).len, t.byte (s.dstStart + k) = s.byte ((s.channel 0).start + k)) ∧
      BytesKeptOutside s t s.dstStart (s.channel 0).len ∧ Succeeded t (s.channel 0).len ∧ BufferFrame s t

/-- R76: with no active channel (none at all, or none valid) the output is empty and no byte is written.
That engine.acc stays as it was here is no part of R76 or R77: R36 leaves it unspecified, and it is the model's choice (log 18). -/
def Obligations.MixWithoutActiveChannelIsEmpty : Prop :=
  ∀ s : State, MixReady s → activeCount s.hw s.channels = 0 → exec .mix s = .next (s.complete 0)

/-- MIX reports the first failing check, in the order of R105; among channels the lowest index. `mixOutputLength` is `need`
as R76's pseudocode has it.
That engine.acc stays as it was here is no part of R76 or R77: R36 leaves it unspecified, and it is the model's choice (log 18). -/
def Obligations.MixReportsTheFirstError : Prop :=
  ∀ (s : State) (need : Nat), need = mixOutputLength s →
    (s.hw.maxChannels < s.srcLength →
      exec .mix s = .next (s.raiseError (.of .tooManyChannels s.srcLength s.hw.maxChannels))) ∧
    (s.srcLength ≤ s.hw.maxChannels → ¬ InRange s s.srcStart (8 * s.srcLength) →
      exec .mix s = .next (s.raiseError (.of .bufferOutOfRange 2 s.srcStart))) ∧
    (s.srcLength ≤ s.hw.maxChannels → InRange s s.srcStart (8 * s.srcLength) →
      (∀ j < s.srcLength, (s.channel j).valid = true → (s.channel j).len % 2 = 1 →
        (∀ l < j, (s.channel l).valid = true → (s.channel l).len % 2 = 0) →
        exec .mix s = .next (s.raiseError (.of .invalidChannelLength j (s.channel j).len))) ∧
      ((∀ j < s.srcLength, (s.channel j).valid = true → (s.channel j).len % 2 = 0) →
        (∀ j < s.srcLength, (s.channel j).valid = true → ¬ InRange s (s.channel j).start (s.channel j).len →
          (∀ l < j, (s.channel l).valid = true → InRange s (s.channel l).start (s.channel l).len) →
          exec .mix s = .next (s.raiseError (.of .bufferOutOfRange (0x100 + j) (s.channel j).start))) ∧
        ((∀ j < s.srcLength, (s.channel j).valid = true → InRange s (s.channel j).start (s.channel j).len) →
          (s.dstCapacity < need →
            exec .mix s = .next (s.raiseError (.of .outputTooSmall need s.dstCapacity))) ∧
          (need ≤ s.dstCapacity → ¬ InRange s s.dstStart need →
            exec .mix s = .next (s.raiseError (.of .bufferOutOfRange 1 s.dstStart))) ∧
          (DstFits s need → Overlap s.srcStart (8 * s.srcLength) s.dstStart need →
            exec .mix s = .next (s.raiseError (.of .regionOverlap 2 0))) ∧
          (DstFits s need → ¬ Overlap s.srcStart (8 * s.srcLength) s.dstStart need →
            ∀ j < s.srcLength, (s.channel j).valid = true →
              Overlap (s.channel j).start (s.channel j).len s.dstStart need →
              (∀ l < j, (s.channel l).valid = true →
                ¬ Overlap (s.channel l).start (s.channel l).len s.dstStart need) →
              exec .mix s = .next (s.raiseError (.of .regionOverlap (0x100 + j) 0))))))

/-! ### RTP commands (R80–R99) -/

/-- R89, R90, R91: all four RTP commands, checks passed: the first turn issues exactly one Acquire and holds; nothing is written.
While the answer to a request abandoned by a reset is out, at most one request being outstanding, the turn waits and changes
nothing (where the engine waits is the model's reading, log 10).
That engine.acc stays as it was is the model's choice (log 18). -/
def Obligations.RtpCommandsAcquireAfterTheChecks : Prop :=
  ∀ (s : State) (i : Instr) (d : Dir) (law : Law) (fc : Int), rtpCommand i = some (d, law, fc) →
    s.phase = .run .start → RtpReady s d fc →
    (s.abandoned = 0 → exec i s = .next { s with
      port := .waiting (.acquire d), codecLog := s.codecLog ++ [.acquire d], phase := .run .acquiring }) ∧
    (s.abandoned ≠ 0 → exec i s = .next s)

/-- All four RTP commands report the first failing check, in the order of R105, before any codec request. The lengths are
those of R84 and R86: 12 + 10*fc in and 12 + 80*fc out, or the other way round.
That engine.acc stays as it was is the model's choice (log 18). -/
def Obligations.RtpCommandsReportTheFirstError : Prop :=
  ∀ (s : State) (i : Instr) (d : Dir) (law : Law) (fc : Int), rtpCommand i = some (d, law, fc) →
    s.phase = .run .start →
    ∀ req need : Nat, (d = .dec ∧ req = 12 + 10 * fc.toNat ∧ need = 12 + 80 * fc.toNat) ∨
      (d = .enc ∧ req = 12 + 80 * fc.toNat ∧ need = 12 + 10 * fc.toNat) →
    (fc ≤ 0 → exec i s = .next (s.raiseError ⟨.invalidFrameCount, BitVec.ofInt 32 fc, 0⟩)) ∧
    (0 < fc → ¬ InRange s s.srcStart s.srcLength →
      exec i s = .next (s.raiseError (.of .bufferOutOfRange 0 s.srcStart))) ∧
    (0 < fc → InRange s s.srcStart s.srcLength →
      (s.srcLength < req →
        exec i s = .next (s.raiseError (.of .packetTooShort req s.srcLength))) ∧
      (req ≤ s.srcLength → s.rtpVersionField ≠ 2 →
        exec i s = .next (s.raiseError (.of .invalidVersion s.rtpVersionField 0))) ∧
      (req ≤ s.srcLength → s.rtpVersionField = 2 → d = .dec → s.rtpTypeField ≠ 18 →
        exec i s = .next (s.raiseError (.of .payloadTypeMismatch 18 s.rtpTypeField))) ∧
      (req ≤ s.srcLength → s.rtpVersionField = 2 → (d = .dec → s.rtpTypeField = 18) →
        (s.dstCapacity < need →
          exec i s = .next (s.raiseError (.of .outputTooSmall need s.dstCapacity))) ∧
        (need ≤ s.dstCapacity → ¬ InRange s s.dstStart need →
          exec i s = .next (s.raiseError (.of .bufferOutOfRange 1 s.dstStart))) ∧
        (DstFits s need → Overlap s.srcStart s.srcLength s.dstStart need →
          exec i s = .next (s.raiseError (.of .regionOverlap 0 0)))))

/-- R90: while the answer is out, the turn of an RTP command changes nothing at all.
That engine.acc stays as it was is the model's choice (log 18). -/
def Obligations.RtpCommandsHoldUntilTheAnswer : Prop :=
  ∀ (s : State) (i : Instr) (d : Dir) (law : Law) (fc : Int) (p : Position) (r : CodecRequest),
    rtpCommand i = some (d, law, fc) → s.phase = .run p → p ≠ .start → s.port = .waiting r → exec i s = .next s

/-- R81 and R91: on a handle the context is held, the header is written with the payload type replaced and the marker kept,
frame 0 is requested, and no other byte changes. The header is read at the answer, where R84 reads byte 1 before it: that is
the model's reading (log 17).
That engine.acc stays as it was is the model's choice (log 18). -/
def Obligations.AcquireAnswerWritesTheHeader : Prop :=
  ∀ (s : State) (i : Instr) (d : Dir) (law : Law) (fc : Int) (h : Handle), rtpCommand i = some (d, law, fc) →
    s.phase = .run .acquiring → s.port = .answered (.handle h) →
    ∃ t, exec i s = .next t ∧ t.ctx = some ⟨d, h⟩ ∧ t.phase = .run (.frame 0 12) ∧
      (∀ k < 12, k ≠ 1 → t.byte (s.dstStart + k) = s.byte (s.srcStart + k)) ∧
      t.byte (s.dstStart + 1) = ((s.byte (s.srcStart + 1) &&& 0x80) |||
        (match d, law with
          | .dec, .mu => 0
          | .dec, .a => 8
          | .enc, _ => 18)) ∧
      BytesKeptOutside s t s.dstStart 12 ∧ t.port = .waiting (rtpRequest d law h 0 t) ∧
      t.codecLog = s.codecLog ++ [rtpRequest d law h 0 t] ∧ t.csr = s.csr ∧ t.acc = s.acc ∧ t.draws = s.draws ∧
      TurnFrame s t

/-- R91: when Acquire answers FAIL the command reports CodecInitFailed; nothing was written and no Release is issued.
That engine.acc stays as it was is the model's choice (log 18). -/
def Obligations.AcquireFailureReportsCodecInitFailed : Prop :=
  ∀ (s : State) (i : Instr) (d : Dir) (law : Law) (fc : Int), rtpCommand i = some (d, law, fc) →
    s.phase = .run .acquiring → s.ctx = none → s.port = .answered .fail →
    exec i s = .next { s with
      port := .quiet, phase := .idle, csr := s.csr.completed .codecInitFailed 0 0 0 }

/-- R84, R85: a decoded frame that is not the last is companded into its 80 bytes, and the next frame is sent.
That engine.acc stays as it was is the model's choice (log 18). -/
def Obligations.RtpdFrameIsCompandedAndTheNextSent : Prop :=
  ∀ (s : State) (i : Instr) (law : Law) (fc : Int) (h : Handle) (n off : Nat) (r : Vector Sample 80),
    rtpCommand i = some (.dec, law, fc) → s.phase = .run (.frame n off) → s.ctx = some ⟨.dec, h⟩ →
    s.port = .answered (.pcm r) → n + 1 < fc.toNat →
    ∃ t, exec i s = .next t ∧
      (∀ k, (hk : k < 80) → t.byte (s.dstStart + off + k) = lawEnc law r[k]) ∧
      BytesKeptOutside s t (s.dstStart + off) 80 ∧ t.phase = .run (.frame (n + 1) (off + 80)) ∧
      t.port = .waiting (.decode h (t.bytes (s.srcStart + 12 + 10 * (n + 1)) 10)) ∧
      t.codecLog = s.codecLog ++ [.decode h (t.bytes (s.srcStart + 12 + 10 * (n + 1)) 10)] ∧
      t.ctx = s.ctx ∧ t.csr = s.csr ∧ t.acc = s.acc ∧ t.draws = s.draws ∧ TurnFrame s t

/-- RTPD.U and RTPD.A complete (R84, R85): the last decoded frame is companded into its 80 bytes, the context is released
once, and RES_LEN is the packet's length.
That engine.acc stays as it was is the model's choice (log 18). -/
def Obligations.RtpdCompletesOnTheLastFrame : Prop :=
  ∀ (s : State) (i : Instr) (law : Law) (fc : Int) (h : Handle) (n : Nat) (r : Vector Sample 80),
    rtpCommand i = some (.dec, law, fc) → s.phase = .run (.frame n (12 + 80 * n)) → s.ctx = some ⟨.dec, h⟩ →
    s.port = .answered (.pcm r) → n + 1 = fc.toNat →
    ∃ t, exec i s = .next t ∧
      (∀ k, (hk : k < 80) → t.byte (s.dstStart + 12 + 80 * n + k) = lawEnc law r[k]) ∧
      BytesKeptOutside s t (s.dstStart + 12 + 80 * n) 80 ∧ Succeeded t (12 + 80 * fc.toNat) ∧
      t.ctx = none ∧ t.port = .quiet ∧ t.codecLog = s.codecLog ++ [.release h] ∧ t.acc = s.acc ∧ t.draws = s.draws ∧
      TurnFrame s t

/-- R86, R87: an encoded frame that is not the last is appended, a zero-length one with no byte, and the next is sent.
That engine.acc stays as it was is the model's choice (log 18). -/
def Obligations.RtpeFrameIsAppendedAndTheNextSent : Prop :=
  ∀ (s : State) (i : Instr) (law : Law) (fc : Int) (h : Handle) (n off : Nat) (r : CodecFrame),
    rtpCommand i = some (.enc, law, fc) → s.phase = .run (.frame n off) → s.ctx = some ⟨.enc, h⟩ →
    s.port = .answered (.bits r) → n + 1 < fc.toNat →
    ∃ t, exec i s = .next t ∧
      (∀ k, (hk : k < r.bytes.length) → t.byte (s.dstStart + off + k) = r.bytes[k]) ∧
      BytesKeptOutside s t (s.dstStart + off) r.bytes.length ∧ r.bytes.length ≤ 10 ∧
      t.phase = .run (.frame (n + 1) (off + r.bytes.length)) ∧
      t.port = .waiting (.encode h ((t.bytes (s.srcStart + 12 + 80 * (n + 1)) 80).map (lawDec law))) ∧
      t.codecLog = s.codecLog ++ [.encode h ((t.bytes (s.srcStart + 12 + 80 * (n + 1)) 80).map (lawDec law))] ∧
      t.ctx = s.ctx ∧ t.csr = s.csr ∧ t.acc = s.acc ∧ t.draws = s.draws ∧ TurnFrame s t

/-- RTPE.U and RTPE.A complete (R86, R87): the last encoded frame is appended, the context is released once, and RES_LEN
counts the bytes written.
That engine.acc stays as it was is the model's choice (log 18). -/
def Obligations.RtpeCompletesOnTheLastFrame : Prop :=
  ∀ (s : State) (i : Instr) (law : Law) (fc : Int) (h : Handle) (n off : Nat) (r : CodecFrame),
    rtpCommand i = some (.enc, law, fc) → s.phase = .run (.frame n off) → s.ctx = some ⟨.enc, h⟩ →
    s.port = .answered (.bits r) → n + 1 = fc.toNat →
    ∃ t, exec i s = .next t ∧
      (∀ k, (hk : k < r.bytes.length) → t.byte (s.dstStart + off + k) = r.bytes[k]) ∧
      BytesKeptOutside s t (s.dstStart + off) r.bytes.length ∧ Succeeded t (off + r.bytes.length) ∧
      t.ctx = none ∧ t.port = .quiet ∧ t.codecLog = s.codecLog ++ [.release h] ∧ t.acc = s.acc ∧ t.draws = s.draws ∧
      TurnFrame s t

/-- R96, R104: a frame that answers FAIL releases the context and reports CodecFrameFailed(i); BUF stays as it is.
That engine.acc stays as it was is the model's choice (log 18). -/
def Obligations.FrameFailureReleasesAndReports : Prop :=
  ∀ (s : State) (i : Instr) (d : Dir) (law : Law) (fc : Int) (h : Handle) (n off : Nat),
    rtpCommand i = some (d, law, fc) → s.phase = .run (.frame n off) → s.ctx = some ⟨d, h⟩ →
    s.port = .answered .fail →
    exec i s = .next { s with
      port := .quiet, phase := .idle, ctx := none, codecLog := s.codecLog ++ [.release h],
      csr := s.csr.completed .codecFrameFailed 0 (BitVec.ofNat 32 n) 0 }

/-- The engine turns and codec answers of an RTP command of `n` frames in which every answer succeeds. -/
def Sys2Proof.Machine.rtpSchedule (n : Nat) : List Event :=
  .engine :: (List.replicate (n + 1) [Event.codec true, Event.engine]).flatten

/-- The whole of RTPD.U and RTPD.A, from acceptance to completion, under the schedule that alternates answers and turns: the
output packet is the rewritten header and the companded frames, nothing else changes in BUF, and the codec saw one Acquire,
the fc frames in order, and one Release. The answers are R95's function of the frames sent, the spec's modelling choice (log 6);
the schedule is the model's input list (log 2), and the handle a free value of the draw counter (log 7). -/
def Obligations.RtpdRewritesTheWholePacket : Prop :=
  ∀ (s : State) (i : Instr) (law : Law) (fc : Int) (rest : List Event), rtpCommand i = some (.dec, law, fc) →
    decode s.hw s.latch.opWord = .ok i → s.phase = .run .start → s.ctx = none → s.port = .quiet →
    s.abandoned = 0 → s.inReset = false → s.tainted = false → RtpReady s .dec fc → s.inputs = rtpSchedule fc.toNat ++ rest →
    ∃ t, Sys2Proof.core.run (2 * fc.toNat + 3) s = .next t ∧ Succeeded t (12 + 80 * fc.toNat) ∧ t.ctx = none ∧
      t.inputs = rest ∧
      (∀ k < 12, k ≠ 1 → t.byte (s.dstStart + k) = s.byte (s.srcStart + k)) ∧
      t.byte (s.dstStart + 1) = ((s.byte (s.srcStart + 1) &&& 0x80) ||| (match law with
        | .mu => 0
        | .a => 8)) ∧
      (∀ n < fc.toNat, ∀ k, (hk : k < 80) → t.byte (s.dstStart + 12 + 80 * n + k) =
        lawEnc law (Config.g729Dec ((List.range (n + 1)).map fun j => s.bytes (s.srcStart + 12 + 10 * j) 10))[k]) ∧
      BytesKeptOutside s t s.dstStart (12 + 80 * fc.toNat) ∧
      t.codecLog = s.codecLog ++ [.acquire .dec] ++ ((List.range fc.toNat).map fun j =>
        .decode (Config.codecHandle s.draws) (s.bytes (s.srcStart + 12 + 10 * j) 10)) ++
        [.release (Config.codecHandle s.draws)]

/-- The samples the encoder is handed: input frames 0 to n of an RTPE command, decoded. -/
def Sys2Proof.Machine.encFrames (law : Law) (s : State) (n : Nat) : List (List Sample) :=
  (List.range (n + 1)).map fun j => (s.bytes (s.srcStart + 12 + 80 * j) 80).map (lawDec law)

/-- Where the codec's bytes of frame n start in the output packet of an RTPE command. -/
def Sys2Proof.Machine.encOffset (law : Law) (s : State) (n : Nat) : Nat :=
  12 + ((List.range n).map fun j => (Config.g729Enc (encFrames law s j)).bytes.length).sum

/-- The whole of RTPE.U and RTPE.A under the same schedule: the header, then the codec's frames one after another; RES_LEN is
12 plus their lengths; the rest of the destination is not written. The answers are R95's function (log 6); the schedule is the
model's input list (log 2), the handle a free value (log 7), and the decode tables the spec's general knowledge (log 21). -/
def Obligations.RtpeRewritesTheWholePacket : Prop :=
  ∀ (s : State) (i : Instr) (law : Law) (fc : Int) (rest : List Event), rtpCommand i = some (.enc, law, fc) →
    decode s.hw s.latch.opWord = .ok i → s.phase = .run .start → s.ctx = none → s.port = .quiet →
    s.abandoned = 0 → s.inReset = false → s.tainted = false → RtpReady s .enc fc → s.inputs = rtpSchedule fc.toNat ++ rest →
    ∃ t, Sys2Proof.core.run (2 * fc.toNat + 3) s = .next t ∧ Succeeded t (encOffset law s fc.toNat) ∧ t.ctx = none ∧
      t.inputs = rest ∧
      (∀ k < 12, k ≠ 1 → t.byte (s.dstStart + k) = s.byte (s.srcStart + k)) ∧
      t.byte (s.dstStart + 1) = ((s.byte (s.srcStart + 1) &&& 0x80) ||| 18) ∧
      (∀ n < fc.toNat, ∀ k, (hk : k < (Config.g729Enc (encFrames law s n)).bytes.length) →
        t.byte (s.dstStart + encOffset law s n + k) = (Config.g729Enc (encFrames law s n)).bytes[k]) ∧
      BytesKeptOutside s t s.dstStart (encOffset law s fc.toNat) ∧
      t.codecLog = s.codecLog ++ [.acquire .enc] ++ ((List.range fc.toNat).map fun j =>
        .encode (Config.codecHandle s.draws) ((s.bytes (s.srcStart + 12 + 80 * j) 80).map (lawDec law))) ++
        [.release (Config.codecHandle s.draws)]

/-! ### The step, completion and acceptance -/

/-- When the ENGINE moves, out of reset and in RUN, and the host has not interfered, the step is the decoded command's turn.
When another agent moves, the step is its move: the HOST's transaction, the CODEC's answer, a late answer, an edge of the
reset input. The input list says who moves; empty, the ENGINE does (the model's choice, log 2).
Also the model's choice are that asserting reset changes only the input (log 14) and that deasserting a reset that is not
asserted changes nothing (log 23), engine.acc included in each (log 18); that a late answer changes only the model's counter is its reading of R123 (log 10). -/
def Obligations.StepRunsTheDecodedCommand : Prop :=
  ∀ (s : State) (rest : List Event),
    (∀ (p : Position) (i : Instr), s.inReset = false → s.phase = .run p → s.tainted = false →
      decode s.hw s.latch.opWord = .ok i →
      (s.inputs = [] → step s = exec i s) ∧
      (s.inputs = .engine :: rest → step s = exec i { s with inputs := rest })) ∧
    (∀ x, s.inputs = .host x :: rest → step s = .next (hostTurn x { s with inputs := rest })) ∧
    (∀ ok, s.inputs = .codec ok :: rest → step s = .next (codecTurn ok { s with inputs := rest })) ∧
    (s.inputs = .codecLate :: rest → step s = .next { s with inputs := rest, abandoned := s.abandoned - 1 }) ∧
    (s.inputs = .resetAssert :: rest → step s = .next { s with inputs := rest, inReset := true }) ∧
    (s.inputs = .resetDeassert :: rest → s.inReset = true → step s = .next (resetBlock { s with inputs := rest })) ∧
    (s.inputs = .resetDeassert :: rest → s.inReset = false → step s = .next { s with inputs := rest })

/-- R107: the engine's turn on an illegal word completes with IllegalCommand and the word; no byte and no request.
That engine.acc stays as it was is the model's choice (log 18). -/
def Obligations.IllegalWordCompletesWithIllegalCommand : Prop :=
  ∀ (s : State) (p : Position) (e : Illegal), s.inReset = false → s.phase = .run p → s.tainted = false →
    s.ctx = none → decode s.hw s.latch.opWord = .error e →
    engineTurn s = .next { s with phase := .idle, csr := s.csr.completed .illegalCommand 0 s.latch.opWord 0 }

/-- R102: complete(len), and after it the engine writes nothing more.
That engine.acc stays as it was is the model's choice (log 18). -/
def Obligations.SuccessfulCompletionStep : Prop :=
  ∀ (s : State) (len : Nat), s.complete len = { s with
      phase := .idle
      csr := { s.csr with
        resLen := BitVec.ofNat 32 len, errInfo0 := 0, errInfo1 := 0, err := 0x00, busy := false, done := true } } ∧
    engineTurn (s.complete len) = .next (s.complete len)

/-- R103: raise E(i0, i1) releases a held context and then reports; the data are taken mod 2^32 and the codes have the fifteen
numbers of R101; BUF is unchanged.
That engine.acc stays as it was is the model's choice (log 18). -/
def Obligations.ErrorCompletionStep : Prop :=
  ([.ok, .oddLength, .tooShort, .invalidChannelLength, .packetTooShort, .invalidVersion, .payloadTypeMismatch,
      .invalidFrameCount, .codecInitFailed, .codecFrameFailed, .illegalCommand, .bufferOutOfRange, .outputTooSmall,
      .regionOverlap, .tooManyChannels].map CompletionCode.value =
    [0x00, 0x01, 0x02, 0x03, 0x04, 0x05, 0x06, 0x07, 0x08, 0x09, 0x10, 0x11, 0x12, 0x13, 0x14]) ∧
  (∀ (c : CompletionCode) (i0 i1 : Nat), (Failure.of c i0 i1).code = c ∧
    (Failure.of c i0 i1).info0.toNat = i0 % 2 ^ 32 ∧ (Failure.of c i0 i1).info1.toNat = i1 % 2 ^ 32) ∧
  ∀ (s : State) (f : Failure),
    (s.raiseError f).csr = { s.csr with
      resLen := 0, errInfo0 := f.info0, errInfo1 := f.info1, err := f.code.value, busy := false, done := true } ∧
    (s.raiseError f).phase = .idle ∧ (s.raiseError f).ctx = none ∧
    (s.ctx = none → (s.raiseError f).codecLog = s.codecLog) ∧
    (∀ c, s.ctx = some c → (s.raiseError f).codecLog = s.codecLog ++ [.release c.handle]) ∧
    (∀ a, (s.raiseError f).byte a = s.byte a) ∧ (s.raiseError f).buf = s.buf ∧ (s.raiseError f).port = s.port ∧
    (s.raiseError f).acc = s.acc ∧ (s.raiseError f).draws = s.draws ∧ TurnFrame s (s.raiseError f)

/-- R27, R125: a CMD write with BUSY = 0 is accepted in one step, whatever the word; with BUSY = 1 only REJ changes. A read
returns the last accepted word, 0 after reset. That acceptance leaves engine.acc as it was is the model's choice (log 18). -/
def Obligations.CmdWriteIsAcceptedOrRefused : Prop :=
  ∀ (s : State) (w : Word), s.inReset = false →
    (s.csr.busy = false → hostTurn (.write .w32 0x0C w) s = { s with
      csr := { s.csr with cmd := w, busy := true, done := false, err := 0, resLen := 0, errInfo0 := 0, errInfo1 := 0 }
      latch := ⟨w, s.csr.srcAddr, s.csr.srcLen, s.csr.dstAddr, s.csr.dstCap⟩
      phase := .run .start
      tainted := false
      busReply := some .written }) ∧
    (s.csr.busy = true → hostTurn (.write .w32 0x0C w) s =
      { s with csr := { s.csr with rej := true }, busReply := some .written }) ∧
    hostTurn (.read .w32 0x0C) s = { s with busReply := some (.data s.csr.cmd) } ∧ State.reset.csr.cmd = 0

/-- R35: in every step the latch is unchanged, unless the HOST's CMD write is accepted or the block is reset (the value it has
then is the model's choice, log 4). -/
def Obligations.LatchChangesOnlyAtAcceptance : Prop :=
  ∀ s t : State, step s = .next t → t.latch = s.latch ∨
    (∃ w, s.inputs.head? = some (.host (.write .w32 0x0C w)) ∧ s.csr.busy = false ∧ s.inReset = false) ∨
    (s.inputs.head? = some .resetDeassert ∧ s.inReset = true)

/-! ### CSRs and the host port (10_state.md, 20_memory.md) -/

/-- R22, R23, R24, R34: what the host reads at each CSR offset, ID and MEMSZ for every parameter choice, and that a write to a
RO register or to a reserved offset is ignored. -/
def Obligations.CsrReadsFollowTheMap : Prop :=
  ∀ s : State, s.inReset = false →
    (∀ off v, (off, v) ∈ [(0x04, ctrlWord s.csr), (0x08, statusWord s.csr), (0x0C, s.csr.cmd), (0x10, s.csr.srcAddr), (0x14, s.csr.srcLen), (0x18, s.csr.dstAddr),
        (0x1C, s.csr.dstCap), (0x20, s.csr.resLen), (0x24, s.csr.errInfo0), (0x28, s.csr.errInfo1)] →
      hostTurn (.read .w32 off) s = { s with busReply := some (.data v) }) ∧
    (∃ v : Word, hostTurn (.read .w32 0x00) s = { s with busReply := some (.data v) } ∧
      v.extractLsb' 0 8 = s.hw.idRev ∧ v.getLsbD 8 = s.hw.alawRtp ∧ v.getLsbD 9 = s.hw.mixCountEmpty ∧
      v.extractLsb' 10 6 = 0 ∧ v.extractLsb' 16 16 = BitVec.ofNat 16 (s.hw.maxChannels - 1) ∧
      (s.hw = Config.default → v = 0x001F0301)) ∧
    hostTurn (.read .w32 0x2C) s = { s with busReply := some (.data (BitVec.ofNat 32 s.hw.memBytes)) } ∧
    (∀ off ∈ [0x00, 0x20, 0x24, 0x28, 0x2C], ∀ v,
      hostTurn (.write .w32 off v) s = { s with busReply := some .written }) ∧
    (∀ off, 0x30 ≤ off → off < 0x10000 → off % 4 = 0 →
      hostTurn (.read .w32 off) s = { s with busReply := some (.data 0) } ∧
      ∀ v, hostTurn (.write .w32 off v) s = { s with busReply := some .written })

/-- R26: the bits of STATUS as the host reads them at offset 0x08. -/
def Obligations.StatusReadLayout : Prop :=
  ∀ s : State, s.inReset = false → ∃ v : Word, hostTurn (.read .w32 0x08) s = { s with busReply := some (.data v) } ∧
    v = statusWord s.csr ∧ v.getLsbD 0 = s.csr.busy ∧ v.getLsbD 1 = s.csr.done ∧ v.getLsbD 2 = s.csr.rej ∧
    v.extractLsb' 3 5 = 0 ∧ v.extractLsb' 8 8 = s.csr.err ∧ v.extractLsb' 16 16 = 0

/-- R26: writing STATUS clears DONE and REJ where the written bit is 1 and touches nothing else of the block. -/
def Obligations.StatusWriteOneClears : Prop :=
  ∀ (s : State) (v : Word), s.inReset = false →
    hostTurn (.write .w32 0x08 v) s = { s with
      csr := { s.csr with
        done := if v.getLsbD 1 then false else s.csr.done, rej := if v.getLsbD 2 then false else s.csr.rej }
      busReply := some .written }

/-- R25, R131: a CTRL write sets IE at once, busy or not, and irq follows IE and DONE. -/
def Obligations.CtrlWriteTakesEffectAtOnce : Prop :=
  ∀ (s : State) (v : Word), s.inReset = false →
    hostTurn (.write .w32 0x04 v) s = { s with csr := { s.csr with ie := v.getLsbD 0 }, busReply := some .written } ∧
    (hostTurn (.write .w32 0x04 v) s).irq = (v.getLsbD 0 && s.csr.done) ∧
    hostTurn (.read .w32 0x04) s = { s with busReply := some (.data (if s.csr.ie then 1 else 0)) }

/-- R130: the operand registers can be written at any time; the write changes that register and, of the running command,
nothing. -/
def Obligations.OperandWritesLeaveTheLatch : Prop :=
  ∀ (s : State) (v : Word), s.inReset = false →
    hostTurn (.write .w32 0x10 v) s = { s with csr := { s.csr with srcAddr := v }, busReply := some .written } ∧
    hostTurn (.write .w32 0x14 v) s = { s with csr := { s.csr with srcLen := v }, busReply := some .written } ∧
    hostTurn (.write .w32 0x18 v) s = { s with csr := { s.csr with dstAddr := v }, busReply := some .written } ∧
    hostTurn (.write .w32 0x1C v) s = { s with csr := { s.csr with dstCap := v }, busReply := some .written }

/-- R43, R44, R115: an access outside both windows, misaligned, or narrow in the CSR window is a bus error that changes no
block state. -/
def Obligations.IllegalHostAccessIsABusError : Prop :=
  ∀ (s : State) (w : Width) (off : Nat),
    (off < 0x10000 ∧ (w ≠ .w32 ∨ off % 4 ≠ 0)) ∨
      (0x10000 ≤ off ∧ (off < s.hw.bufBase ∨ s.hw.bufBase + s.hw.memBytes < off + w.bytes ∨ off % w.bytes ≠ 0)) →
    hostTurn (.read w off) s = { s with busReply := some .busError } ∧
    ∀ v, hostTurn (.write w off v) s = { s with busReply := some .busError }

/-- R40, R43: a legal BUF write stores the data little-endian at BUF offset `off - BUF_BASE` and no other byte. That a narrow
write takes the low bits of a 32-bit datum is the model's reading (log 22). -/
def Obligations.HostBufWriteStoresLittleEndian : Prop :=
  ∀ (s : State) (w : Width) (off : Nat) (v : Word), s.inReset = false → 0x10000 ≤ off → s.hw.bufBase ≤ off →
    off + w.bytes ≤ s.hw.bufBase + s.hw.memBytes → off % w.bytes = 0 →
    (∀ k < w.bytes, (hostTurn (.write w off v) s).byte (off - s.hw.bufBase + k) = v.extractLsb' (8 * k) 8) ∧
    BytesKeptOutside s (hostTurn (.write w off v) s) (off - s.hw.bufBase) w.bytes ∧
    (hostTurn (.write w off v) s).csr = s.csr ∧ (hostTurn (.write w off v) s).latch = s.latch ∧
    (hostTurn (.write w off v) s).phase = s.phase ∧ (hostTurn (.write w off v) s).ctx = s.ctx

/-- R40, R46, R49: a BUF read that meets no byte of a running command's destination, nor after host interference of its capacity
span, returns the bytes little-endian; it changes no CSR, no byte and no engine state. That a narrow reply is zero-extended is
the model's reading (log 22), and that the model's draw counter advances its choice (log 25). -/
def Obligations.HostBufReadReturnsLittleEndian : Prop :=
  ∀ (s : State) (w : Width) (off : Nat), s.inReset = false → 0x10000 ≤ off → s.hw.bufBase ≤ off →
    off + w.bytes ≤ s.hw.bufBase + s.hw.memBytes → off % w.bytes = 0 →
    (s.csr.busy = true → ∀ k < w.bytes, s.runningDst.covers (off - s.hw.bufBase + k) = false ∧
      (s.tainted = true → off - s.hw.bufBase + k < s.dstStart ∨ s.dstStart + s.dstCapacity ≤ off - s.hw.bufBase + k)) →
    ∃ v : Word, hostTurn (.read w off) s = { s with busReply := some (.data v), draws := s.draws + 1 } ∧
      (∀ k < w.bytes, v.extractLsb' (8 * k) 8 = s.byte (off - s.hw.bufBase + k)) ∧ v.toNat < 2 ^ (8 * w.bytes)

/-- R49, R110: a legal BUF write disturbs the running command exactly when it meets a region of it: the destination with its
need, the source, or for MIX the table and every valid channel. Disturbed means that the model draws the result when the
command completes (log 12). The regions count whether or not the command's checks pass, with the lengths log 11 names (12 bytes
for a frame count that is not positive, half of an odd CENC length rounded down), and of a table that cannot be read only the
table itself does (log 11). -/
def Obligations.HostWriteTaintsExactlyInsideRegions : Prop :=
  ∀ (s : State) (w : Width) (off a : Nat) (v : Word), s.inReset = false → 0x10000 ≤ off → s.hw.bufBase ≤ off →
    off + w.bytes ≤ s.hw.bufBase + s.hw.memBytes → off % w.bytes = 0 → a = off - s.hw.bufBase → s.tainted = false →
    (s.csr.busy = false → (hostTurn (.write w off v) s).tainted = false) ∧
    (∀ e, decode s.hw s.latch.opWord = .error e → (hostTurn (.write w off v) s).tainted = false) ∧
    (s.csr.busy = true → ∀ i, decode s.hw s.latch.opWord = .ok i →
      (∀ need, ((i = .cencU ∨ i = .cencA) ∧ need = s.srcLength / 2) ∨ ((i = .cdecU ∨ i = .cdecA) ∧ need = 2 * s.srcLength) ∨
          ((i = .h2n ∨ i = .n2h) ∧ need = s.srcLength) ∨
          (∃ law fc, rtpCommand i = some (.dec, law, fc) ∧ need = 12 + 80 * fc.toNat) ∨
          (∃ law fc, rtpCommand i = some (.enc, law, fc) ∧ need = 12 + 10 * fc.toNat) →
        ((hostTurn (.write w off v) s).tainted = true ↔
          Overlap s.dstStart need a w.bytes ∨ Overlap s.srcStart s.srcLength a w.bytes)) ∧
      (i = .mix → s.srcLength ≤ s.hw.maxChannels → InRange s s.srcStart (8 * s.srcLength) →
        ((hostTurn (.write w off v) s).tainted = true ↔
          Overlap s.dstStart (mixOutputLength s) a w.bytes ∨ Overlap s.srcStart (8 * s.srcLength) a w.bytes ∨
            ∃ j < s.srcLength, (s.channel j).valid = true ∧ Overlap (s.channel j).start (s.channel j).len a w.bytes)) ∧
      (i = .mix → ¬ (s.srcLength ≤ s.hw.maxChannels ∧ InRange s s.srcStart (8 * s.srcLength)) →
        ((hostTurn (.write w off v) s).tainted = true ↔ Overlap s.srcStart (8 * s.srcLength) a w.bytes)))

/-- R49: the engine turn that ends a command the host interfered with writes no byte outside the capacity span and reports a
code of R101 (the moment the free result is drawn is the model's choice, log 12). -/
def Obligations.InterferedResultStaysInTheSpan : Prop :=
  ∀ s t : State, s.Inv → s.tainted = true → engineTurn s = .next t → s.phase ≠ .idle → t.phase = .idle →
    BytesKeptOutside s t s.dstStart s.dstCapacity ∧ t.csr.busy = false ∧ t.csr.done = true ∧
    isCompletionValue t.csr.err = true ∧ t.ctx = none ∧ t.tainted = false

/-! ### Codec, reset, interrupt -/

/-- R91, R95, R96: the CODEC's answers are a handle with a fresh history, the function of the frames sent on the context,
or FAIL; only the outstanding request is answered. That an answer is such a function is the spec's modelling choice (log 6),
the histories are the model's record of it (log 9), the handle is a free value of the draw counter (log 7), and that an answer
without an outstanding request changes nothing, and that an answer leaves engine.acc as it was, are the model's choice (logs 23
and 18). -/
def Obligations.CodecAnswersTheOutstandingRequest : Prop :=
  ∀ s : State,
    (∀ d, s.port = .waiting (.acquire d) →
      codecTurn true s = { s with
        port := .answered (.handle (Config.codecHandle s.draws)), draws := s.draws + 1, decHist := [], encHist := [] } ∧
      codecTurn false s = { s with port := .answered .fail }) ∧
    (∀ h f, s.port = .waiting (.decode h f) →
      codecTurn true s = { s with
        port := .answered (.pcm (Config.g729Dec (s.decHist ++ [f]))), decHist := s.decHist ++ [f] } ∧
      codecTurn false s = { s with port := .answered .fail, decHist := s.decHist ++ [f] }) ∧
    (∀ h p, s.port = .waiting (.encode h p) →
      codecTurn true s = { s with
        port := .answered (.bits (Config.g729Enc (s.encHist ++ [p]))), encHist := s.encHist ++ [p] } ∧
      codecTurn false s = { s with port := .answered .fail, encHist := s.encHist ++ [p] }) ∧
    (s.port = .quiet → ∀ ok, codecTurn ok s = s) ∧
    (∀ a, s.port = .answered a → ∀ ok, codecTurn ok s = s)

/-- R121: the reset values the spec gives. -/
def Obligations.ResetValuesOfTheBlock : Prop :=
  ctrlWord State.reset.csr = 0 ∧ statusWord State.reset.csr = 0 ∧ State.reset.csr.cmd = 0 ∧
  State.reset.csr.srcAddr = 0 ∧ State.reset.csr.srcLen = 0 ∧ State.reset.csr.dstAddr = 0 ∧
  State.reset.csr.dstCap = 0 ∧ State.reset.csr.resLen = 0 ∧ State.reset.csr.errInfo0 = 0 ∧
  State.reset.csr.errInfo1 = 0 ∧ idWord State.reset.hw = 0x001F0301 ∧ memszWord State.reset.hw = 0x00010000 ∧
  State.reset.phase = .idle ∧ State.reset.ctx = none ∧ State.reset.irq = false

/-- R120–R123: deassertion of the reset input resets every CSR, the phase and the context, whatever ran; a held context is
released, and so is a handle that was answered and not yet taken (the model's reading of R89 and R94, log 27); an outstanding
answer is marked to be discarded and when it arrives changes nothing but the model's counter (log 10); every BUF byte is a new
draw (log 5). -/
def Obligations.ResetEventAbandonsAndReleases : Prop :=
  (∀ s : State, codecLateTurn s = { s with abandoned := s.abandoned - 1 }) ∧
  ∀ (s t : State) (rest : List Event), s.inReset = true → s.inputs = .resetDeassert :: rest → step s = .next t →
    t.csr = State.reset.csr ∧ t.phase = .idle ∧ t.ctx = none ∧ t.port = .quiet ∧ t.irq = false ∧ t.inReset = false ∧
    t.hw = s.hw ∧ t.inputs = rest ∧
    t.codecLog = s.codecLog ++
      (match s.ctx with
        | none => []
        | some c => [.release c.handle]) ++
      (match s.port with
        | .answered (.handle h) => [.release h]
        | _ => []) ∧
    (∀ r, s.port = .waiting r → t.abandoned = s.abandoned + 1) ∧
    (∀ a, t.byte a = Config.bufAtReset (s.epoch + 1) a)

/-- R120: while the reset input is asserted, every host access is a bus error and the engine takes no step. -/
def Obligations.AssertedResetStopsHostAndEngine : Prop :=
  ∀ s : State, s.inReset = true →
    (∀ t, hostTurn t s = { s with busReply := some .busError }) ∧ engineTurn s = .next s

/-- R112, R113, R131: irq rises only when the ENGINE moves and completes a command, or the HOST writes CTRL. Who moves is in the
model's input list (log 2). -/
def Obligations.IrqRisesOnlyOnCompletionOrCtrlWrite : Prop :=
  ∀ s t : State, step s = .next t → s.irq = false → t.irq = true →
    ((s.inputs = [] ∨ s.inputs.head? = some .engine) ∧ s.phase ≠ .idle ∧ t.phase = .idle ∧ t.csr.done = true) ∨
    (∃ v, s.inputs.head? = some (.host (.write .w32 0x04 v)) ∧ v.getLsbD 0 = true)

/-! ### Whole-machine rules and invariants -/

/-- R100, R119: no step stops the block: every state has a next state. -/
def Obligations.EveryStepHasANextState : Prop := ∀ s : State, ∃ t, step s = .next t

/-- R45, R104, R108: from every state of the invariant, a turn of any command writes no BUF byte outside its capacity span
`(D_ADDR, D_CAP)`, and none outside BUF. -/
def Obligations.EngineWritesOnlyItsCapacitySpan : Prop :=
  ∀ (s t : State) (i : Instr), s.Inv → s.phase ≠ .idle → decode s.hw s.latch.opWord = .ok i → exec i s = .next t →
    BytesKeptOutside s t s.dstStart s.dstCapacity ∧ t.MemoryInBuf

/-- No engine turn of any command changes what R27, R35 and R46 keep for the host: the parameters, CTRL, REJ, CMD, the operand
registers, the latch. -/
def Obligations.EveryCommandKeepsTheTurnFrame : Prop :=
  ∀ (s t : State) (i : Instr), exec i s = .next t → TurnFrame s t

/-- Every step keeps BUF in canonical form, the model's own representation (log 5). -/
def Obligations.StepKeepsMemoryCanonical : Prop :=
  ∀ s t : State, s.MemoryCanonical → step s = .next t → t.MemoryCanonical

/-- Every step keeps the machine's invariant: canonical BUF (log 5) inside its bounds, STATUS in agreement with the
sequencer, the sequencer in agreement with the context slot and the codec port, and at most one request outstanding (R90). -/
def Obligations.StepKeepsTheInvariant : Prop :=
  ∀ s t : State, s.Inv → step s = .next t → t.Inv

/-- The invariant holds at reset. -/
def Obligations.ResetMeetsTheInvariant : Prop := State.reset.Inv
end

