-- ==== Sys2Proof/Laws/State.lean ====
section
/-! SUPPORT. One lemma per field per update: what each named operation leaves alone, and what it sets. -/

namespace Sys2Proof.Machine

/-! ### writeBytes -/

@[simp] theorem State.writeBytes_hw (s : State) (a : Nat) (bs : List Byte) : (s.writeBytes a bs).hw = s.hw := rfl
@[simp] theorem State.writeBytes_csr (s : State) (a : Nat) (bs : List Byte) : (s.writeBytes a bs).csr = s.csr := rfl
@[simp] theorem State.writeBytes_latch (s : State) (a : Nat) (bs : List Byte) : (s.writeBytes a bs).latch = s.latch := rfl
@[simp] theorem State.writeBytes_phase (s : State) (a : Nat) (bs : List Byte) : (s.writeBytes a bs).phase = s.phase := rfl
@[simp] theorem State.writeBytes_ctx (s : State) (a : Nat) (bs : List Byte) : (s.writeBytes a bs).ctx = s.ctx := rfl
@[simp] theorem State.writeBytes_acc (s : State) (a : Nat) (bs : List Byte) : (s.writeBytes a bs).acc = s.acc := rfl
@[simp] theorem State.writeBytes_inReset (s : State) (a : Nat) (bs : List Byte) : (s.writeBytes a bs).inReset = s.inReset := rfl
@[simp] theorem State.writeBytes_port (s : State) (a : Nat) (bs : List Byte) : (s.writeBytes a bs).port = s.port := rfl
@[simp] theorem State.writeBytes_decHist (s : State) (a : Nat) (bs : List Byte) : (s.writeBytes a bs).decHist = s.decHist := rfl
@[simp] theorem State.writeBytes_encHist (s : State) (a : Nat) (bs : List Byte) : (s.writeBytes a bs).encHist = s.encHist := rfl
@[simp] theorem State.writeBytes_abandoned (s : State) (a : Nat) (bs : List Byte) : (s.writeBytes a bs).abandoned = s.abandoned := rfl
@[simp] theorem State.writeBytes_codecLog (s : State) (a : Nat) (bs : List Byte) : (s.writeBytes a bs).codecLog = s.codecLog := rfl
@[simp] theorem State.writeBytes_busReply (s : State) (a : Nat) (bs : List Byte) : (s.writeBytes a bs).busReply = s.busReply := rfl
@[simp] theorem State.writeBytes_tainted (s : State) (a : Nat) (bs : List Byte) : (s.writeBytes a bs).tainted = s.tainted := rfl
@[simp] theorem State.writeBytes_epoch (s : State) (a : Nat) (bs : List Byte) : (s.writeBytes a bs).epoch = s.epoch := rfl
@[simp] theorem State.writeBytes_draws (s : State) (a : Nat) (bs : List Byte) : (s.writeBytes a bs).draws = s.draws := rfl
@[simp] theorem State.writeBytes_inputs (s : State) (a : Nat) (bs : List Byte) : (s.writeBytes a bs).inputs = s.inputs := rfl

/-! ### issue -/

@[simp] theorem State.issue_hw (s : State) (r : CodecRequest) : (s.issue r).hw = s.hw := rfl
@[simp] theorem State.issue_csr (s : State) (r : CodecRequest) : (s.issue r).csr = s.csr := rfl
@[simp] theorem State.issue_latch (s : State) (r : CodecRequest) : (s.issue r).latch = s.latch := rfl
@[simp] theorem State.issue_phase (s : State) (r : CodecRequest) : (s.issue r).phase = s.phase := rfl
@[simp] theorem State.issue_ctx (s : State) (r : CodecRequest) : (s.issue r).ctx = s.ctx := rfl
@[simp] theorem State.issue_acc (s : State) (r : CodecRequest) : (s.issue r).acc = s.acc := rfl
@[simp] theorem State.issue_buf (s : State) (r : CodecRequest) : (s.issue r).buf = s.buf := rfl
@[simp] theorem State.issue_inReset (s : State) (r : CodecRequest) : (s.issue r).inReset = s.inReset := rfl
@[simp] theorem State.issue_decHist (s : State) (r : CodecRequest) : (s.issue r).decHist = s.decHist := rfl
@[simp] theorem State.issue_encHist (s : State) (r : CodecRequest) : (s.issue r).encHist = s.encHist := rfl
@[simp] theorem State.issue_abandoned (s : State) (r : CodecRequest) : (s.issue r).abandoned = s.abandoned := rfl
@[simp] theorem State.issue_busReply (s : State) (r : CodecRequest) : (s.issue r).busReply = s.busReply := rfl
@[simp] theorem State.issue_tainted (s : State) (r : CodecRequest) : (s.issue r).tainted = s.tainted := rfl
@[simp] theorem State.issue_epoch (s : State) (r : CodecRequest) : (s.issue r).epoch = s.epoch := rfl
@[simp] theorem State.issue_draws (s : State) (r : CodecRequest) : (s.issue r).draws = s.draws := rfl
@[simp] theorem State.issue_inputs (s : State) (r : CodecRequest) : (s.issue r).inputs = s.inputs := rfl

/-! ### takeAnswer -/

@[simp] theorem State.takeAnswer_hw (s : State) : s.takeAnswer.hw = s.hw := rfl
@[simp] theorem State.takeAnswer_csr (s : State) : s.takeAnswer.csr = s.csr := rfl
@[simp] theorem State.takeAnswer_latch (s : State) : s.takeAnswer.latch = s.latch := rfl
@[simp] theorem State.takeAnswer_phase (s : State) : s.takeAnswer.phase = s.phase := rfl
@[simp] theorem State.takeAnswer_ctx (s : State) : s.takeAnswer.ctx = s.ctx := rfl
@[simp] theorem State.takeAnswer_acc (s : State) : s.takeAnswer.acc = s.acc := rfl
@[simp] theorem State.takeAnswer_buf (s : State) : s.takeAnswer.buf = s.buf := rfl
@[simp] theorem State.takeAnswer_inReset (s : State) : s.takeAnswer.inReset = s.inReset := rfl
@[simp] theorem State.takeAnswer_decHist (s : State) : s.takeAnswer.decHist = s.decHist := rfl
@[simp] theorem State.takeAnswer_encHist (s : State) : s.takeAnswer.encHist = s.encHist := rfl
@[simp] theorem State.takeAnswer_abandoned (s : State) : s.takeAnswer.abandoned = s.abandoned := rfl
@[simp] theorem State.takeAnswer_codecLog (s : State) : s.takeAnswer.codecLog = s.codecLog := rfl
@[simp] theorem State.takeAnswer_busReply (s : State) : s.takeAnswer.busReply = s.busReply := rfl
@[simp] theorem State.takeAnswer_tainted (s : State) : s.takeAnswer.tainted = s.tainted := rfl
@[simp] theorem State.takeAnswer_epoch (s : State) : s.takeAnswer.epoch = s.epoch := rfl
@[simp] theorem State.takeAnswer_draws (s : State) : s.takeAnswer.draws = s.draws := rfl
@[simp] theorem State.takeAnswer_inputs (s : State) : s.takeAnswer.inputs = s.inputs := rfl

/-! ### complete -/

@[simp] theorem State.complete_hw (s : State) (len : Nat) : (s.complete len).hw = s.hw := rfl
@[simp] theorem State.complete_latch (s : State) (len : Nat) : (s.complete len).latch = s.latch := rfl
@[simp] theorem State.complete_ctx (s : State) (len : Nat) : (s.complete len).ctx = s.ctx := rfl
@[simp] theorem State.complete_acc (s : State) (len : Nat) : (s.complete len).acc = s.acc := rfl
@[simp] theorem State.complete_buf (s : State) (len : Nat) : (s.complete len).buf = s.buf := rfl
@[simp] theorem State.complete_inReset (s : State) (len : Nat) : (s.complete len).inReset = s.inReset := rfl
@[simp] theorem State.complete_port (s : State) (len : Nat) : (s.complete len).port = s.port := rfl
@[simp] theorem State.complete_decHist (s : State) (len : Nat) : (s.complete len).decHist = s.decHist := rfl
@[simp] theorem State.complete_encHist (s : State) (len : Nat) : (s.complete len).encHist = s.encHist := rfl
@[simp] theorem State.complete_abandoned (s : State) (len : Nat) : (s.complete len).abandoned = s.abandoned := rfl
@[simp] theorem State.complete_codecLog (s : State) (len : Nat) : (s.complete len).codecLog = s.codecLog := rfl
@[simp] theorem State.complete_busReply (s : State) (len : Nat) : (s.complete len).busReply = s.busReply := rfl
@[simp] theorem State.complete_tainted (s : State) (len : Nat) : (s.complete len).tainted = s.tainted := rfl
@[simp] theorem State.complete_epoch (s : State) (len : Nat) : (s.complete len).epoch = s.epoch := rfl
@[simp] theorem State.complete_draws (s : State) (len : Nat) : (s.complete len).draws = s.draws := rfl
@[simp] theorem State.complete_inputs (s : State) (len : Nat) : (s.complete len).inputs = s.inputs := rfl

/-! ### accept -/

@[simp] theorem State.accept_hw (s : State) (w : Word) : (s.accept w).hw = s.hw := rfl
@[simp] theorem State.accept_ctx (s : State) (w : Word) : (s.accept w).ctx = s.ctx := rfl
@[simp] theorem State.accept_acc (s : State) (w : Word) : (s.accept w).acc = s.acc := rfl
@[simp] theorem State.accept_buf (s : State) (w : Word) : (s.accept w).buf = s.buf := rfl
@[simp] theorem State.accept_inReset (s : State) (w : Word) : (s.accept w).inReset = s.inReset := rfl
@[simp] theorem State.accept_port (s : State) (w : Word) : (s.accept w).port = s.port := rfl
@[simp] theorem State.accept_decHist (s : State) (w : Word) : (s.accept w).decHist = s.decHist := rfl
@[simp] theorem State.accept_encHist (s : State) (w : Word) : (s.accept w).encHist = s.encHist := rfl
@[simp] theorem State.accept_abandoned (s : State) (w : Word) : (s.accept w).abandoned = s.abandoned := rfl
@[simp] theorem State.accept_codecLog (s : State) (w : Word) : (s.accept w).codecLog = s.codecLog := rfl
@[simp] theorem State.accept_busReply (s : State) (w : Word) : (s.accept w).busReply = s.busReply := rfl
@[simp] theorem State.accept_epoch (s : State) (w : Word) : (s.accept w).epoch = s.epoch := rfl
@[simp] theorem State.accept_draws (s : State) (w : Word) : (s.accept w).draws = s.draws := rfl
@[simp] theorem State.accept_inputs (s : State) (w : Word) : (s.accept w).inputs = s.inputs := rfl

/-! ### reject -/

@[simp] theorem State.reject_hw (s : State) : s.reject.hw = s.hw := rfl
@[simp] theorem State.reject_latch (s : State) : s.reject.latch = s.latch := rfl
@[simp] theorem State.reject_phase (s : State) : s.reject.phase = s.phase := rfl
@[simp] theorem State.reject_ctx (s : State) : s.reject.ctx = s.ctx := rfl
@[simp] theorem State.reject_acc (s : State) : s.reject.acc = s.acc := rfl
@[simp] theorem State.reject_buf (s : State) : s.reject.buf = s.buf := rfl
@[simp] theorem State.reject_inReset (s : State) : s.reject.inReset = s.inReset := rfl
@[simp] theorem State.reject_port (s : State) : s.reject.port = s.port := rfl
@[simp] theorem State.reject_decHist (s : State) : s.reject.decHist = s.decHist := rfl
@[simp] theorem State.reject_encHist (s : State) : s.reject.encHist = s.encHist := rfl
@[simp] theorem State.reject_abandoned (s : State) : s.reject.abandoned = s.abandoned := rfl
@[simp] theorem State.reject_codecLog (s : State) : s.reject.codecLog = s.codecLog := rfl
@[simp] theorem State.reject_busReply (s : State) : s.reject.busReply = s.busReply := rfl
@[simp] theorem State.reject_tainted (s : State) : s.reject.tainted = s.tainted := rfl
@[simp] theorem State.reject_epoch (s : State) : s.reject.epoch = s.epoch := rfl
@[simp] theorem State.reject_draws (s : State) : s.reject.draws = s.draws := rfl
@[simp] theorem State.reject_inputs (s : State) : s.reject.inputs = s.inputs := rfl

/-! ### releaseCtx -/

@[simp] theorem State.releaseCtx_hw (s : State) : s.releaseCtx.hw = s.hw := by
  unfold State.releaseCtx; split <;> rfl
@[simp] theorem State.releaseCtx_csr (s : State) : s.releaseCtx.csr = s.csr := by
  unfold State.releaseCtx; split <;> rfl
@[simp] theorem State.releaseCtx_latch (s : State) : s.releaseCtx.latch = s.latch := by
  unfold State.releaseCtx; split <;> rfl
@[simp] theorem State.releaseCtx_phase (s : State) : s.releaseCtx.phase = s.phase := by
  unfold State.releaseCtx; split <;> rfl
@[simp] theorem State.releaseCtx_acc (s : State) : s.releaseCtx.acc = s.acc := by
  unfold State.releaseCtx; split <;> rfl
@[simp] theorem State.releaseCtx_buf (s : State) : s.releaseCtx.buf = s.buf := by
  unfold State.releaseCtx; split <;> rfl
@[simp] theorem State.releaseCtx_inReset (s : State) : s.releaseCtx.inReset = s.inReset := by
  unfold State.releaseCtx; split <;> rfl
@[simp] theorem State.releaseCtx_port (s : State) : s.releaseCtx.port = s.port := by
  unfold State.releaseCtx; split <;> rfl
@[simp] theorem State.releaseCtx_decHist (s : State) : s.releaseCtx.decHist = s.decHist := by
  unfold State.releaseCtx; split <;> rfl
@[simp] theorem State.releaseCtx_encHist (s : State) : s.releaseCtx.encHist = s.encHist := by
  unfold State.releaseCtx; split <;> rfl
@[simp] theorem State.releaseCtx_abandoned (s : State) : s.releaseCtx.abandoned = s.abandoned := by
  unfold State.releaseCtx; split <;> rfl
@[simp] theorem State.releaseCtx_busReply (s : State) : s.releaseCtx.busReply = s.busReply := by
  unfold State.releaseCtx; split <;> rfl
@[simp] theorem State.releaseCtx_tainted (s : State) : s.releaseCtx.tainted = s.tainted := by
  unfold State.releaseCtx; split <;> rfl
@[simp] theorem State.releaseCtx_epoch (s : State) : s.releaseCtx.epoch = s.epoch := by
  unfold State.releaseCtx; split <;> rfl
@[simp] theorem State.releaseCtx_draws (s : State) : s.releaseCtx.draws = s.draws := by
  unfold State.releaseCtx; split <;> rfl
@[simp] theorem State.releaseCtx_inputs (s : State) : s.releaseCtx.inputs = s.inputs := by
  unfold State.releaseCtx; split <;> rfl

/-! ### raiseError -/

@[simp] theorem State.raiseError_hw (s : State) (f : Failure) : (s.raiseError f).hw = s.hw := by
  simp [State.raiseError]
@[simp] theorem State.raiseError_latch (s : State) (f : Failure) : (s.raiseError f).latch = s.latch := by
  simp [State.raiseError]
@[simp] theorem State.raiseError_acc (s : State) (f : Failure) : (s.raiseError f).acc = s.acc := by
  simp [State.raiseError]
@[simp] theorem State.raiseError_buf (s : State) (f : Failure) : (s.raiseError f).buf = s.buf := by
  simp [State.raiseError]
@[simp] theorem State.raiseError_inReset (s : State) (f : Failure) : (s.raiseError f).inReset = s.inReset := by
  simp [State.raiseError]
@[simp] theorem State.raiseError_port (s : State) (f : Failure) : (s.raiseError f).port = s.port := by
  simp [State.raiseError]
@[simp] theorem State.raiseError_decHist (s : State) (f : Failure) : (s.raiseError f).decHist = s.decHist := by
  simp [State.raiseError]
@[simp] theorem State.raiseError_encHist (s : State) (f : Failure) : (s.raiseError f).encHist = s.encHist := by
  simp [State.raiseError]
@[simp] theorem State.raiseError_abandoned (s : State) (f : Failure) : (s.raiseError f).abandoned = s.abandoned := by
  simp [State.raiseError]
@[simp] theorem State.raiseError_busReply (s : State) (f : Failure) : (s.raiseError f).busReply = s.busReply := by
  simp [State.raiseError]
@[simp] theorem State.raiseError_tainted (s : State) (f : Failure) : (s.raiseError f).tainted = s.tainted := by
  simp [State.raiseError]
@[simp] theorem State.raiseError_epoch (s : State) (f : Failure) : (s.raiseError f).epoch = s.epoch := by
  simp [State.raiseError]
@[simp] theorem State.raiseError_draws (s : State) (f : Failure) : (s.raiseError f).draws = s.draws := by
  simp [State.raiseError]
@[simp] theorem State.raiseError_inputs (s : State) (f : Failure) : (s.raiseError f).inputs = s.inputs := by
  simp [State.raiseError]

/-! ### What the updates set -/

@[simp] theorem State.issue_port (s : State) (r : CodecRequest) : (s.issue r).port = .waiting r := rfl
@[simp] theorem State.issue_codecLog (s : State) (r : CodecRequest) : (s.issue r).codecLog = s.codecLog ++ [r] := rfl
@[simp] theorem State.takeAnswer_port (s : State) : s.takeAnswer.port = .quiet := rfl
@[simp] theorem State.complete_phase (s : State) (len : Nat) : (s.complete len).phase = .idle := rfl
@[simp] theorem State.complete_csr (s : State) (len : Nat) :
    (s.complete len).csr = s.csr.completed .ok (BitVec.ofNat 32 len) 0 0 := rfl
@[simp] theorem State.accept_phase (s : State) (w : Word) : (s.accept w).phase = .run .start := rfl
@[simp] theorem State.accept_tainted (s : State) (w : Word) : (s.accept w).tainted = false := rfl
@[simp] theorem State.releaseCtx_ctx (s : State) : s.releaseCtx.ctx = none := by
  unfold State.releaseCtx; split <;> simp_all
@[simp] theorem State.raiseError_ctx (s : State) (f : Failure) : (s.raiseError f).ctx = none := by
  simp [State.raiseError]
@[simp] theorem State.raiseError_phase (s : State) (f : Failure) : (s.raiseError f).phase = .idle := rfl
@[simp] theorem State.raiseError_csr (s : State) (f : Failure) :
    (s.raiseError f).csr = s.csr.completed f.code 0 f.info0 f.info1 := by simp [State.raiseError]

/-- With no context held there is nothing to release (44_codec_port.md R94). -/
theorem State.releaseCtx_of_none {s : State} (h : s.ctx = none) : s.releaseCtx = s := by
  simp [State.releaseCtx, h]

/-- A held context is released by one request. -/
theorem State.releaseCtx_of_some {s : State} {c : Context} (h : s.ctx = some c) :
    s.releaseCtx = { s with ctx := none, codecLog := s.codecLog ++ [.release c.handle] } := by
  simp [State.releaseCtx, h]

/-! ### The completion step's CSR writes -/

section
variable (c : Csr) (code : CompletionCode) (len i0 i1 : Word)
@[simp] theorem Csr.completed_resLen : (c.completed code len i0 i1).resLen = len := rfl
@[simp] theorem Csr.completed_errInfo0 : (c.completed code len i0 i1).errInfo0 = i0 := rfl
@[simp] theorem Csr.completed_errInfo1 : (c.completed code len i0 i1).errInfo1 = i1 := rfl
@[simp] theorem Csr.completed_err : (c.completed code len i0 i1).err = code.value := rfl
@[simp] theorem Csr.completed_busy : (c.completed code len i0 i1).busy = false := rfl
@[simp] theorem Csr.completed_done : (c.completed code len i0 i1).done = true := rfl
@[simp] theorem Csr.completed_ie : (c.completed code len i0 i1).ie = c.ie := rfl
@[simp] theorem Csr.completed_rej : (c.completed code len i0 i1).rej = c.rej := rfl
@[simp] theorem Csr.completed_cmd : (c.completed code len i0 i1).cmd = c.cmd := rfl
@[simp] theorem Csr.completed_srcAddr : (c.completed code len i0 i1).srcAddr = c.srcAddr := rfl
@[simp] theorem Csr.completed_srcLen : (c.completed code len i0 i1).srcLen = c.srcLen := rfl
@[simp] theorem Csr.completed_dstAddr : (c.completed code len i0 i1).dstAddr = c.dstAddr := rfl
@[simp] theorem Csr.completed_dstCap : (c.completed code len i0 i1).dstCap = c.dstCap := rfl
end

end Sys2Proof.Machine
end

