-- ==== Sys2Proof/Laws/Memory.lean ====
section
/-! SUPPORT. The laws of BUF: a read after a write, and that every write keeps the canonical form. -/

namespace Sys2Proof.Machine

@[simp] theorem Memory.find_put_self (m : Memory) (a : Nat) (b : Byte) : Memory.find (Memory.put m a b) a = some b := by
  induction m with
  | nil => simp [Memory.put, Memory.find]
  | cons c m ih =>
    obtain ⟨k, v⟩ := c
    simp only [Memory.put]
    split
    · simp [Memory.find]
    · split
      · simp [Memory.find]
      · simp [Memory.find, *]

theorem Memory.find_put_other {a x : Nat} (h : x ≠ a) (m : Memory) (b : Byte) :
    Memory.find (Memory.put m a b) x = Memory.find m x := by
  induction m with
  | nil => simp [Memory.put, Memory.find, h]
  | cons c m ih =>
    obtain ⟨k, v⟩ := c
    simp only [Memory.put]
    split
    · simp [Memory.find, h]
    · split
      · subst_vars; simp [Memory.find, h]
      · simp [Memory.find, ih]

/-- A block of bytes written from `a` on, read at any address. -/
theorem Memory.find_putAll (bs : List Byte) (m : Memory) (a x : Nat) :
    Memory.find (Memory.putAll m a bs) x =
      if a ≤ x ∧ x < a + bs.length then bs[x - a]? else Memory.find m x := by
  induction bs generalizing m a with
  | nil => simp only [Memory.putAll, List.length_nil]; rw [if_neg (by omega)]
  | cons b bs ih =>
    simp only [Memory.putAll, List.length_cons, ih]
    rcases Nat.lt_trichotomy x a with h | rfl | h
    · rw [if_neg (by omega), if_neg (by omega), Memory.find_put_other (by omega)]
    · rw [if_neg (by omega), if_pos (by omega)]; simp
    · have e : x - a = (x - (a + 1)) + 1 := by omega
      by_cases hx : x < a + 1 + bs.length
      · rw [if_pos (by omega), if_pos (by omega), e, List.getElem?_cons_succ]
      · rw [if_neg (by omega), if_neg (by omega), Memory.find_put_other (by omega)]

/-- The byte law of `State.writeBytes`: inside the block the byte written, outside the byte that was there. -/
theorem State.byte_writeBytes (s : State) (a : Nat) (bs : List Byte) (x : Nat) :
    (s.writeBytes a bs).byte x = if h : a ≤ x ∧ x - a < bs.length then bs[x - a] else s.byte x := by
  simp only [State.byte, State.unwritten, State.writeBytes, Memory.find_putAll]
  by_cases h : a ≤ x ∧ x - a < bs.length
  · rw [if_pos (by omega), dif_pos h]; simp [h.2]
  · rw [if_neg (by omega), dif_neg h]

theorem State.byte_writeBytes_outside {a x : Nat} {bs : List Byte} (s : State) (h : x < a ∨ a + bs.length ≤ x) :
    (s.writeBytes a bs).byte x = s.byte x := by
  rw [State.byte_writeBytes, dif_neg (by omega)]

theorem State.byte_writeBytes_inside {k : Nat} {bs : List Byte} (s : State) (a : Nat) (h : k < bs.length) :
    (s.writeBytes a bs).byte (a + k) = bs[k] := by
  rw [State.byte_writeBytes, dif_pos (by omega)]; simp

/-- A byte depends on BUF and on the draw of its reset contents only. -/
theorem State.byte_congr {s t : State} (hb : t.buf = s.buf) (he : t.epoch = s.epoch) (x : Nat) : t.byte x = s.byte x := by
  simp [State.byte, State.unwritten, hb, he]

@[simp] theorem State.byte_raiseError (s : State) (f : Failure) (x : Nat) : (s.raiseError f).byte x = s.byte x :=
  State.byte_congr (by simp) (by simp) x
@[simp] theorem State.byte_releaseCtx (s : State) (x : Nat) : s.releaseCtx.byte x = s.byte x :=
  State.byte_congr (by simp) (by simp) x
@[simp] theorem State.byte_complete (s : State) (len x : Nat) : (s.complete len).byte x = s.byte x := rfl
@[simp] theorem State.byte_issue (s : State) (r : CodecRequest) (x : Nat) : (s.issue r).byte x = s.byte x := rfl
@[simp] theorem State.byte_takeAnswer (s : State) (x : Nat) : s.takeAnswer.byte x = s.byte x := rfl
@[simp] theorem State.byte_accept (s : State) (w : Word) (x : Nat) : (s.accept w).byte x = s.byte x := rfl

/-! ### The canonical form -/

theorem Memory.wf_cons {c : Host.Cell} {m : Memory} :
    Memory.wf (c :: m) = true ↔ (∀ d ∈ m.head?, c.1 < d.1) ∧ Memory.wf m = true := by
  cases m with
  | nil => simp [Memory.wf]
  | cons d m => simp [Memory.wf]

theorem Memory.head_put (m : Memory) (a : Nat) (b : Byte) :
    ∀ d ∈ (Memory.put m a b).head?, d.1 = a ∨ d ∈ m.head? := by
  cases m with
  | nil => simp [Memory.put]
  | cons c m =>
    simp only [Memory.put]
    split
    · simp
    · split <;> simp

/-- Writing a byte keeps the addresses strictly rising. -/
theorem Memory.wf_put {m : Memory} (h : Memory.wf m = true) (a : Nat) (b : Byte) : Memory.wf (Memory.put m a b) = true := by
  induction m with
  | nil => rfl
  | cons c m ih =>
    obtain ⟨hc, hm⟩ := Memory.wf_cons.mp h
    simp only [Memory.put]
    split
    · exact Memory.wf_cons.mpr ⟨by simpa using ‹_›, h⟩
    · split
      · subst_vars; exact Memory.wf_cons.mpr ⟨hc, hm⟩
      · refine Memory.wf_cons.mpr ⟨fun d hd => ?_, ih hm⟩
        rcases Memory.head_put m a b d hd with rfl | hd
        · show c.1 < d.1
          omega
        · exact hc d hd

theorem Memory.wf_putAll {m : Memory} (h : Memory.wf m = true) (a : Nat) (bs : List Byte) :
    Memory.wf (Memory.putAll m a bs) = true := by
  induction bs generalizing m a with
  | nil => exact h
  | cons b bs ih => exact ih (Memory.wf_put h a b) _

/-! ### Which addresses are listed -/

theorem Memory.mem_put {m : Memory} {a : Nat} {b : Byte} {c : Host.Cell} (h : c ∈ Memory.put m a b) : c = (a, b) ∨ c ∈ m := by
  induction m with
  | nil => simpa [Memory.put] using h
  | cons d m ih =>
    simp only [Memory.put] at h
    split at h
    · simpa using h
    · split at h
      · rcases List.mem_cons.mp h with h | h
        · exact .inl h
        · exact .inr (List.mem_cons_of_mem _ h)
      · rcases List.mem_cons.mp h with h | h
        · exact .inr (h ▸ List.mem_cons_self)
        · exact (ih h).imp_right (List.mem_cons_of_mem _)

theorem Memory.mem_putAll {bs : List Byte} {m : Memory} {a : Nat} {c : Host.Cell} (h : c ∈ Memory.putAll m a bs) :
    (a ≤ c.1 ∧ c.1 < a + bs.length) ∨ c ∈ m := by
  induction bs generalizing m a with
  | nil => exact .inr h
  | cons b bs ih =>
    rcases ih h with h | h
    · exact .inl ⟨by omega, by simp only [List.length_cons]; omega⟩
    · rcases Memory.mem_put h with rfl | h
      · exact .inl ⟨Nat.le_refl _, by simp⟩
      · exact .inr h

/-! ### Lengths of the blocks that are written -/

@[simp] theorem State.length_bytes (s : State) (a n : Nat) : (s.bytes a n).length = n := by simp [State.bytes]
@[simp] theorem length_halfBytes (v : BitVec 16) : (halfBytes v).length = 2 := rfl
@[simp] theorem State.length_rtpHeader (s : State) (pt : Nat) : (s.rtpHeader pt).length = 12 := by simp [State.rtpHeader]
@[simp] theorem State.length_rtpInput (s : State) (d : Dir) (i : Nat) : (s.rtpInput d i).length = rtpInFrame d := by
  simp [State.rtpInput]
@[simp] theorem length_cencOutput (law : Law) (s : State) : (cencOutput law s).length = cencNeed s := by
  simp [cencOutput]
@[simp] theorem length_cdecOutput (law : Law) (s : State) : (cdecOutput law s).length = cdecNeed s := by
  simp [cdecOutput, cdecNeed, List.length_flatMap, Nat.mul_comm]
@[simp] theorem length_swap16 (bs : List Byte) : (swap16 bs).length = bs.length := by
  induction bs using swap16.induct <;> simp_all [swap16]

theorem length_codecFrame (f : Sys2Proof.CodecFrame) : f.bytes.length ≤ 10 := by
  simp only [Sys2Proof.CodecFrame.bytes, List.length_take, Vector.length_toList]; omega

/-- What a frame's answer writes fits one output slot (R92, R93). -/
theorem length_rtpFrameOutput {law : Law} {d : Dir} {a : CodecAnswer} {out : List Byte}
    (h : rtpFrameOutput law d a = some out) : out.length ≤ rtpOutFrame d := by
  cases d <;> cases a <;> simp [rtpFrameOutput] at h <;> subst h
  · simp [rtpOutFrame, cmpFrame]
  · exact length_codecFrame _

end Sys2Proof.Machine
end

