-- ==== Sys2Proof/Laws/Ops.lean ====
section
/-! SUPPORT. What each shared operation can do, said once: region tests, the check list, the buffer-command shape, the
mixer, and the turns of an RTP command. -/

namespace Sys2Proof.Machine

/-! ### Region tests as propositions -/

theorem State.outOfRange_eq_false_iff {s : State} {a n : Nat} : s.outOfRange ⟨a, n⟩ = false ↔ InRange s a n := by
  simp only [State.outOfRange, Region.inRange, InRange, Bool.not_eq_false', Bool.or_eq_true, beq_iff_eq, decide_eq_true_eq]

theorem State.outOfRange_eq_true_iff {s : State} {a n : Nat} : s.outOfRange ⟨a, n⟩ = true ↔ ¬ InRange s a n := by
  rw [← State.outOfRange_eq_false_iff]; simp

theorem Region.overlaps_eq_true_iff {a n b m : Nat} : Region.overlaps ⟨a, n⟩ ⟨b, m⟩ = true ↔ Overlap a n b m := by
  simp [Region.overlaps, Overlap, and_assoc]

theorem Region.overlaps_eq_false_iff {a n b m : Nat} : Region.overlaps ⟨a, n⟩ ⟨b, m⟩ = false ↔ ¬ Overlap a n b m := by
  rw [← Region.overlaps_eq_true_iff]; simp

/-! ### The check list (60_exceptions.md R105) -/

@[simp] theorem firstFailure_nil : firstFailure [] = none := rfl
@[simp] theorem firstFailure_none (cs : List (Option Failure)) : firstFailure (none :: cs) = firstFailure cs := rfl
@[simp] theorem firstFailure_some (f : Failure) (cs : List (Option Failure)) : firstFailure (some f :: cs) = some f := rfl
@[simp] theorem failIf_true (f : Failure) : failIf true f = some f := rfl
@[simp] theorem failIf_false (f : Failure) : failIf false f = none := rfl

theorem failIf_eq_none_iff {b : Bool} {f : Failure} : failIf b f = none ↔ b = false := by
  cases b <;> simp [failIf]

/-- No check fails exactly when each of them passes. -/
theorem firstFailure_eq_none_iff {cs : List (Option Failure)} : firstFailure cs = none ↔ ∀ c ∈ cs, c = none := by
  simp [firstFailure, List.findSome?_eq_none_iff]

/-- The destination checks pass exactly when the destination fits. -/
theorem dstChecks_pass_iff {s : State} {need : Nat} : (∀ c ∈ dstChecks s need, c = none) ↔ DstFits s need := by
  simp [dstChecks, failIf_eq_none_iff, State.dstRegion, State.outOfRange_eq_false_iff, DstFits]

/-- A channel check passes exactly when no valid channel is bad. -/
theorem channelCheck_eq_none_iff {chs : List Channel} {bad : Channel → Bool} {f : Nat → Channel → Failure} :
    channelCheck chs bad f = none ↔ ∀ c ∈ chs, c.valid = true → bad c = false := by
  simp only [channelCheck, List.findSome?_eq_none_iff, failIf_eq_none_iff, Prod.forall, Bool.and_eq_false_imp]
  constructor
  · intro h c hc hv
    obtain ⟨i, hi⟩ := List.mem_iff_getElem?.mp hc
    exact h c i (List.mem_zipIdx_iff_getElem?.mpr hi) hv
  · intro h c i hc hv
    exact h c (List.mem_of_getElem? (List.mem_zipIdx_iff_getElem?.mp hc)) hv

/-! ### Buffer commands -/

/-- A buffer command reports its first failing check, or writes its output and completes. -/
theorem runBuffer_cases {s t : State} {checks : List (Option Failure)} {out : List Byte} {need : Nat}
    (h : runBuffer s checks out need = .next t) :
    (∃ f, firstFailure checks = some f ∧ t = s.raiseError f) ∨
      (firstFailure checks = none ∧ t = (s.writeBytes s.dstStart out).complete need) := by
  unfold runBuffer at h
  split at h
  · next f hf => exact .inl ⟨f, hf, (Host.Outcome.next.inj h).symm⟩
  · next hf => exact .inr ⟨hf, (Host.Outcome.next.inj h).symm⟩

/-- With every check passed the output is written. -/
theorem runBuffer_of_pass {s : State} {checks : List (Option Failure)} (out : List Byte) (need : Nat)
    (h : ∀ c ∈ checks, c = none) :
    runBuffer s checks out need = .next ((s.writeBytes s.dstStart out).complete need) := by
  simp [runBuffer, firstFailure_eq_none_iff.mpr h]

theorem cencChecks_pass_iff {s : State} :
    (∀ c ∈ cencChecks s, c = none) ↔ s.srcLength % 2 = 0 ∧ BufferReady s (s.srcLength / 2) := by
  simp only [cencChecks, List.forall_mem_cons, List.forall_mem_append, dstChecks_pass_iff, List.not_mem_nil,
    false_imp_iff, implies_true, failIf_eq_none_iff, srcCheck, srcOverlapCheck, State.srcRegion, State.dstRegion,
    State.outOfRange_eq_false_iff, Region.overlaps_eq_false_iff, cencNeed, BufferReady, and_true, beq_eq_false_iff_ne]
  rw [show s.srcLength % 2 ≠ 1 ↔ s.srcLength % 2 = 0 by omega]

theorem cdecChecks_pass_iff {s : State} :
    (∀ c ∈ cdecChecks s, c = none) ↔ BufferReady s (2 * s.srcLength) := by
  simp only [cdecChecks, List.forall_mem_cons, List.forall_mem_append, dstChecks_pass_iff, List.not_mem_nil,
    false_imp_iff, implies_true, failIf_eq_none_iff, srcCheck, srcOverlapCheck, State.srcRegion, State.dstRegion,
    State.outOfRange_eq_false_iff, Region.overlaps_eq_false_iff, cdecNeed, BufferReady, and_true]

theorem swapChecks_pass_iff {s : State} :
    (∀ c ∈ swapChecks s, c = none) ↔ 2 ≤ s.srcLength ∧ s.srcLength % 2 = 0 ∧ BufferReady s s.srcLength := by
  simp only [swapChecks, List.forall_mem_cons, List.forall_mem_append, dstChecks_pass_iff, List.not_mem_nil,
    false_imp_iff, implies_true, failIf_eq_none_iff, srcCheck, srcOverlapCheck, State.srcRegion, State.dstRegion,
    State.outOfRange_eq_false_iff, Region.overlaps_eq_false_iff, swapNeed, BufferReady, and_true, beq_eq_false_iff_ne,
    decide_eq_false_iff_not, Nat.not_lt]
  rw [show s.srcLength % 2 ≠ 1 ↔ s.srcLength % 2 = 0 by omega]

/-! ### MIX -/

@[simp] theorem State.length_channels (s : State) : s.channels.length = s.srcLength := by simp [State.channels]

theorem State.forall_channels {s : State} {p : Channel → Prop} :
    (∀ c ∈ s.channels, p c) ↔ ∀ j < s.srcLength, p (s.channel j) := by
  simp [State.channels]

/-- `need` as the machine folds it over the channels is `need` of R76. -/
theorem mixNeed_eq_mixOutputLength (s : State) : mixNeed s = mixOutputLength s := by
  have hact : activeCount s.hw s.channels = 0 ↔
      ∀ j < s.srcLength, (s.channel j).valid = true → s.hw.mixCountEmpty = false ∧ (s.channel j).len = 0 := by
    simp [activeCount, List.countP_eq_zero, State.forall_channels]
  have hlong : longest s.channels =
      ((List.range s.srcLength).map fun j => if (s.channel j).valid then (s.channel j).len / 2 else 0).foldr max 0 := by
    simp only [longest, State.channels, List.foldr_map]
    congr 1; funext j l; split <;> simp
  unfold mixNeed mixLength mixOutputLength
  rw [← hlong]
  by_cases h : activeCount s.hw s.channels = 0
  · rw [if_pos h, if_pos (hact.mp h)]
  · rw [if_neg h, if_neg (fun h' => h (hact.mpr h'))]
    by_cases h1 : s.srcLength = 1
    · have : s.channels = [s.channel 0] := by simp [State.channels, h1]
      rw [this, if_pos h1]
    · rw [if_neg h1]
      split
      · next c hc => exact absurd (by rw [← s.length_channels, hc]; rfl) h1
      · rfl

theorem mixChecks_pass_iff {s : State} : (∀ c ∈ mixChecks s, c = none) ↔ MixReady s := by
  simp only [mixChecks, List.forall_mem_cons, List.forall_mem_append, dstChecks_pass_iff, List.not_mem_nil, false_imp_iff,
    implies_true, failIf_eq_none_iff, channelCheck_eq_none_iff, State.forall_channels, State.tableRegion, State.dstRegion,
    Channel.region, State.outOfRange_eq_false_iff, Region.overlaps_eq_false_iff, decide_eq_false_iff_not, Nat.not_lt,
    beq_eq_false_iff_ne, and_true, MixReady]
  constructor
  · rintro ⟨⟨⟨h1, h2, h3, h4⟩, h5⟩, h6, h7⟩
    exact ⟨h1, h2, fun j hj hv => ⟨by have := h3 j hj hv; omega, h4 j hj hv, h7 j hj hv⟩, h5, h6⟩
  · rintro ⟨h1, h2, h3, h5, h6⟩
    exact ⟨⟨⟨h1, h2, fun j hj hv => by have := (h3 j hj hv).1; omega, fun j hj hv => (h3 j hj hv).2.1⟩, h5⟩, h6,
      fun j hj hv => (h3 j hj hv).2.2⟩

/-- MIX reports its first failing check, or runs. -/
theorem execMix_cases {s t : State} (h : execMix s = .next t) :
    (∃ f, firstFailure (mixChecks s) = some f ∧ t = s.raiseError f) ∨ (MixReady s ∧ t = mixRun s) := by
  unfold execMix at h
  split at h
  · next f hf => exact .inl ⟨f, hf, (Host.Outcome.next.inj h).symm⟩
  · next hf =>
    exact .inr ⟨mixChecks_pass_iff.mp (firstFailure_eq_none_iff.mp hf), (Host.Outcome.next.inj h).symm⟩

theorem execMix_of_ready {s : State} (h : MixReady s) : execMix s = .next (mixRun s) := by
  simp [execMix, firstFailure_eq_none_iff.mpr (mixChecks_pass_iff.mpr h)]

/-- What MIX leaves once its checks have passed: `need` bytes from latch.D_ADDR on, completion, and acc and the draw
counter possibly changed. -/
theorem mixRun_cases (s : State) : ∃ (out : List Byte) (acc : List (BitVec 32)) (draws : Nat),
    out.length = mixNeed s ∧
      mixRun s = { (s.writeBytes s.dstStart out).complete (mixNeed s) with acc := acc, draws := draws } := by
  unfold mixRun
  by_cases h : activeCount s.hw s.channels = 0
  · refine ⟨[], s.acc, s.draws, ?_, ?_⟩
    · simp [mixNeed, mixLength, h]
    · simp [mixNeed, mixLength, h, State.writeBytes, Memory.putAll, State.complete]
  · rw [if_neg h]
    split
    · next c hc =>
      have hn : mixNeed s = c.len := by
        simp only [mixNeed, mixLength, if_neg h]; simp only [hc]
      refine ⟨s.bytes c.start c.len, s.acc, s.draws, by simp [hn], ?_⟩
      rw [hn]; rfl
    · next hc =>
      have hn : mixNeed s = 2 * longest s.channels := by
        simp only [mixNeed, mixLength, if_neg h]
      refine ⟨(mixAccumulate s s.channels).acc.flatMap (mixSample s.hw (activeCount s.hw s.channels)),
        Config.accOutsideMix s.draws, s.draws + 1, ?_, ?_⟩
      · simp [hn, mixAccumulate, mixSample, List.length_flatMap, Function.comp_def, Nat.mul_comm]
      · rw [hn]; rfl

/-! ### RTP -/

theorem rtpChecks_pass_iff {d : Dir} {fc : Int} {s : State} :
    (∀ c ∈ rtpChecks d fc s, c = none) ↔ RtpReady s d fc := by
  simp only [rtpChecks, List.forall_mem_cons, List.forall_mem_append, dstChecks_pass_iff, List.not_mem_nil, false_imp_iff,
    implies_true, failIf_eq_none_iff, srcCheck, srcOverlapCheck, State.srcRegion, State.dstRegion,
    State.outOfRange_eq_false_iff, Region.overlaps_eq_false_iff, decide_eq_false_iff_not, Nat.not_lt, Int.not_le,
    bne_eq_false_iff_eq, and_true, Bool.and_eq_false_imp, beq_iff_eq, RtpReady, BufferReady, rtpVersion, ptG729]
  tauto

/-- The first turn of an RTP command with every check passed and no answer abandoned. -/
theorem rtpStart_of_ready {d : Dir} {fc : Int} {s : State} (h : RtpReady s d fc) (ha : s.abandoned = 0) :
    rtpStart d fc s = { s.issue (.acquire d) with phase := .run .acquiring } := by
  simp [rtpStart, firstFailure_eq_none_iff.mpr (rtpChecks_pass_iff.mpr h), ha]

/-- With every check passed and an abandoned answer still out, the first turn waits. -/
theorem rtpStart_of_abandoned {d : Dir} {fc : Int} {s : State} (h : RtpReady s d fc) (ha : s.abandoned ≠ 0) :
    rtpStart d fc s = s := by
  simp [rtpStart, firstFailure_eq_none_iff.mpr (rtpChecks_pass_iff.mpr h), ha]

/-- The first turn reports a failing check, issues Acquire, or waits for an abandoned answer. -/
theorem rtpStart_cases (d : Dir) (fc : Int) (s : State) :
    (∃ f, rtpStart d fc s = s.raiseError f) ∨
      (RtpReady s d fc ∧ s.abandoned = 0 ∧ rtpStart d fc s = { s.issue (.acquire d) with phase := .run .acquiring }) ∨
      (s.abandoned ≠ 0 ∧ rtpStart d fc s = s) := by
  by_cases hr : RtpReady s d fc
  · by_cases ha : s.abandoned = 0
    · exact .inr (.inl ⟨hr, ha, rtpStart_of_ready hr ha⟩)
    · exact .inr (.inr ⟨ha, rtpStart_of_abandoned hr ha⟩)
  · left
    unfold rtpStart
    split
    · next f hf => exact ⟨f, rfl⟩
    · next hf => exact absurd (rtpChecks_pass_iff.mp (firstFailure_eq_none_iff.mp hf)) hr

/-- The turn at the hold on Acquire. -/
theorem rtpAcquireTurn_cases (d : Dir) (law : Law) (s : State) :
    (∃ h, s.port = .answered (.handle h) ∧ rtpAcquireTurn d law s = rtpAcquired d law h s) ∨
      (s.port = .answered .fail ∧ rtpAcquireTurn d law s = s.takeAnswer.raiseError (.of .codecInitFailed 0 0)) ∨
      rtpAcquireTurn d law s = s := by
  unfold rtpAcquireTurn
  split
  · next h hp => exact .inl ⟨h, hp, rfl⟩
  · next hp => exact .inr (.inl ⟨hp, rfl⟩)
  · exact .inr (.inr rfl)

/-- The turn at a frame. -/
theorem rtpFrameTurn_cases (d : Dir) (law : Law) (fc : Int) (i off : Nat) (s : State) :
    (s.port = .answered .fail ∧ rtpFrameTurn d law fc i off s = s.takeAnswer.raiseError (.of .codecFrameFailed i 0)) ∨
      (∃ c a out, s.ctx = some c ∧ s.port = .answered a ∧ rtpFrameOutput law d a = some out ∧
        rtpFrameTurn d law fc i off s = rtpFrameDone d law fc c i off out s) ∨
      rtpFrameTurn d law fc i off s = s := by
  unfold rtpFrameTurn
  split
  · next hp => exact .inl ⟨hp, rfl⟩
  · next c a _ hc hp =>
    split
    · next out ho => exact .inr (.inl ⟨c, a, out, hc, hp, ho, rfl⟩)
    · exact .inr (.inr rfl)
  · exact .inr (.inr rfl)

/-- The state one turn of an RTP command leaves. -/
def rtpNext (d : Dir) (law : Law) (fc : Int) (s : State) : State :=
  match s.phase with
  | .run .acquiring => rtpAcquireTurn d law s
  | .run (.frame i off) => rtpFrameTurn d law fc i off s
  | .run .start => rtpStart d fc s
  | .idle => rtpStart d fc s

theorem rtpTurn_eq (d : Dir) (law : Law) (fc : Int) (s : State) : rtpTurn d law fc s = .next (rtpNext d law fc s) := by
  unfold rtpTurn rtpNext; split <;> simp_all

/-- Every RTP command's meaning is its turn. -/
theorem exec_of_rtpCommand {i : Instr} {d : Dir} {law : Law} {fc : Int} (h : rtpCommand i = some (d, law, fc)) (s : State) :
    exec i s = .next (rtpNext d law fc s) := by
  cases i <;> simp [rtpCommand] at h <;> obtain ⟨rfl, rfl, rfl⟩ := h <;> exact rtpTurn_eq _ _ _ s

end Sys2Proof.Machine
end

