-- ==== Sys2Proof/Laws/PerInstr.lean ====
section
/-! SUPPORT. Statements made for every command, one lemma per constructor. -/

namespace Sys2Proof.Laws.ReservedBitsZero

/-- R50, R54: RSV, bits [15:6], is 0 in the word of every command. -/
def Statement (i : Instr) : Prop := rsvField (encode i) = 0

/-- RSV of a packed word. -/
theorem rsvField_packWord (n : BitVec 16) (d l : Bool) (op : BitVec 4) : rsvField (packWord n d l op) = 0 := by
  apply BitVec.eq_of_getLsbD_eq
  intro k hk
  rw [rsvField, BitVec.getLsbD_extractLsb', packWord]
  simp only [BitVec.getLsbD_append, hk, decide_true, Bool.true_and]
  simp only [show ¬ 6 + k < 4 by omega, if_false]
  simp [show ¬ 6 + k - 4 < 1 by omega, show ¬ 6 + k - 4 - 1 < 1 by omega, show 6 + k - 4 - 1 - 1 < 10 by omega]

theorem cencU : Statement .cencU := rsvField_packWord ..
theorem cencA : Statement .cencA := rsvField_packWord ..
theorem cdecU : Statement .cdecU := rsvField_packWord ..
theorem cdecA : Statement .cdecA := rsvField_packWord ..
theorem h2n : Statement .h2n := rsvField_packWord ..
theorem n2h : Statement .n2h := rsvField_packWord ..
theorem mix : Statement .mix := rsvField_packWord ..
theorem rtpdU (d : Bool) (n : BitVec 16) : Statement (.rtpdU d n) := rsvField_packWord ..
theorem rtpdA (d : Bool) (n : BitVec 16) : Statement (.rtpdA d n) := rsvField_packWord ..
theorem rtpeU (d : Bool) (n : BitVec 16) : Statement (.rtpeU d n) := rsvField_packWord ..
theorem rtpeA (d : Bool) (n : BitVec 16) : Statement (.rtpeA d n) := rsvField_packWord ..

end Sys2Proof.Laws.ReservedBitsZero
end

