-- ==== Sys2Proof/Laws/Step.lean ====
section
/-! SUPPORT. What one turn and one step can do, said once; later proofs cite these inversions. -/

namespace Sys2Proof.Machine

/-- A buffer command that is not RTP: it reports an error, or writes `need` bytes of a destination that fits and
completes; acc and the draw counter may change (MIX). -/
theorem exec_buffer_cases {i : Instr} {s t : State} (hi : rtpCommand i = none) (h : exec i s = .next t) :
    (∃ f, t = s.raiseError f) ∨ ∃ (out : List Byte) (need : Nat) (acc : List (BitVec 32)) (draws : Nat),
      out.length = need ∧ DstFits s need ∧
        t = { (s.writeBytes s.dstStart out).complete need with acc := acc, draws := draws } := by
  have key : ∀ (checks : List (Option Failure)) (out : List Byte) (need : Nat), out.length = need →
      ((∀ c ∈ checks, c = none) → DstFits s need) → runBuffer s checks out need = .next t →
      (∃ f, t = s.raiseError f) ∨ ∃ (out : List Byte) (need : Nat) (acc : List (BitVec 32)) (draws : Nat),
        out.length = need ∧ DstFits s need ∧
          t = { (s.writeBytes s.dstStart out).complete need with acc := acc, draws := draws } := by
    intro checks out need hl hd hr
    rcases runBuffer_cases hr with ⟨f, _, rfl⟩ | ⟨hn, rfl⟩
    · exact .inl ⟨f, rfl⟩
    · exact .inr ⟨out, need, s.acc, s.draws, hl, hd (firstFailure_eq_none_iff.mp hn), rfl⟩
  cases i <;> simp only [rtpCommand, reduceCtorEq] at hi
  · exact key _ _ _ (length_cencOutput _ s) (fun hc => (cencChecks_pass_iff.mp hc).2.2.1) h
  · exact key _ _ _ (length_cencOutput _ s) (fun hc => (cencChecks_pass_iff.mp hc).2.2.1) h
  · exact key _ _ _ (length_cdecOutput _ s) (fun hc => (cdecChecks_pass_iff.mp hc).2.1) h
  · exact key _ _ _ (length_cdecOutput _ s) (fun hc => (cdecChecks_pass_iff.mp hc).2.1) h
  · exact key _ _ _ (by simp) (fun hc => (swapChecks_pass_iff.mp hc).2.2.2.1) h
  · exact key _ _ _ (by simp) (fun hc => (swapChecks_pass_iff.mp hc).2.2.2.1) h
  · rcases execMix_cases h with ⟨f, _, rfl⟩ | ⟨hr, rfl⟩
    · exact .inl ⟨f, rfl⟩
    · obtain ⟨out, acc, draws, hl, ht⟩ := mixRun_cases s
      exact .inr ⟨out, mixNeed s, acc, draws, hl, hr.2.2.2.1, ht⟩

/-- Every turn of every command: an error, a buffer command's output, or an RTP turn. -/
theorem exec_cases {i : Instr} {s t : State} (h : exec i s = .next t) :
    (rtpCommand i = none ∧ ((∃ f, t = s.raiseError f) ∨
      ∃ (out : List Byte) (need : Nat) (acc : List (BitVec 32)) (draws : Nat), out.length = need ∧ DstFits s need ∧
        t = { (s.writeBytes s.dstStart out).complete need with acc := acc, draws := draws })) ∨
    ∃ d law fc, rtpCommand i = some (d, law, fc) ∧ t = rtpNext d law fc s := by
  rcases hc : rtpCommand i with _ | ⟨d, law, fc⟩
  · exact .inl ⟨rfl, exec_buffer_cases hc h⟩
  · exact .inr ⟨d, law, fc, rfl, by rw [exec_of_rtpCommand hc] at h; exact (Host.Outcome.next.inj h).symm⟩

/-- What one RTP turn can do, whatever its position. -/
theorem rtpNext_cases (d : Dir) (law : Law) (fc : Int) (s : State) :
    ((s.phase = .idle ∨ s.phase = .run .start) ∧ ∃ f, rtpNext d law fc s = s.raiseError f) ∨
    (∃ f, rtpNext d law fc s = s.takeAnswer.raiseError f) ∨ rtpNext d law fc s = s ∨
    ((s.phase = .idle ∨ s.phase = .run .start) ∧ RtpReady s d fc ∧ s.abandoned = 0 ∧
      rtpNext d law fc s = { s.issue (.acquire d) with phase := .run .acquiring }) ∨
    (∃ h, s.phase = .run .acquiring ∧ s.port = .answered (.handle h) ∧ rtpNext d law fc s = rtpAcquired d law h s) ∨
    (∃ i off c a out, s.phase = .run (.frame i off) ∧ s.ctx = some c ∧ s.port = .answered a ∧
      rtpFrameOutput law d a = some out ∧ rtpNext d law fc s = rtpFrameDone d law fc c i off out s) := by
  unfold rtpNext
  split
  · next hp =>
    rcases rtpAcquireTurn_cases d law s with ⟨h, hr, e⟩ | ⟨_, e⟩ | e <;> rw [e]
    · exact .inr (.inr (.inr (.inr (.inl ⟨h, hp, hr, rfl⟩))))
    · exact .inr (.inl ⟨_, rfl⟩)
    · exact .inr (.inr (.inl rfl))
  · next i off hp =>
    rcases rtpFrameTurn_cases d law fc i off s with ⟨_, e⟩ | ⟨c, a, out, hc, hr, ho, e⟩ | e <;> rw [e]
    · exact .inr (.inl ⟨_, rfl⟩)
    · exact .inr (.inr (.inr (.inr (.inr ⟨i, off, c, a, out, hp, hc, hr, ho, rfl⟩))))
    · exact .inr (.inr (.inl rfl))
  all_goals
    next hp =>
      rcases rtpStart_cases d fc s with ⟨f, e⟩ | ⟨hr, ha, e⟩ | ⟨_, e⟩
      · exact .inl ⟨by simp [hp], f, e⟩
      · exact .inr (.inr (.inr (.inl ⟨by simp [hp], hr, ha, e⟩)))
      · exact .inr (.inr (.inl e))

/-- One step: the head of the input list, taken off, says who moves; with none the ENGINE does. -/
theorem step_cases {s t : State} (h : step s = .next t) :
    (s.inputs = [] ∧ engineTurn s = .next t) ∨ ∃ e rest, s.inputs = e :: rest ∧ (match e with
      | .engine => engineTurn { s with inputs := rest } = .next t
      | .host x => t = hostTurn x { s with inputs := rest }
      | .codec ok => t = codecTurn ok { s with inputs := rest }
      | .codecLate => t = codecLateTurn { s with inputs := rest }
      | .resetAssert => t = resetAssertTurn { s with inputs := rest }
      | .resetDeassert => t = resetDeassertTurn { s with inputs := rest }) := by
  unfold step at h
  split at h
  · next hi => exact .inl ⟨hi, h⟩
  all_goals
    next hi =>
      refine .inr ⟨_, _, hi, ?_⟩
      first
        | exact h
        | exact (Host.Outcome.next.inj h).symm

/-- One engine turn: nothing, an illegal word, or the decoded command's turn; the last two are settled. -/
theorem engineTurn_cases {s t : State} (h : engineTurn s = .next t) :
    t = s ∨ (∃ p e, s.phase = .run p ∧ s.inReset = false ∧ decode s.hw s.latch.opWord = .error e ∧ t = settle s.illegal) ∨
    ∃ p i u, s.phase = .run p ∧ s.inReset = false ∧ decode s.hw s.latch.opWord = .ok i ∧ exec i s = .next u ∧
      t = settle u := by
  unfold engineTurn at h
  split at h
  · exact .inl (Host.Outcome.next.inj h).symm
  · next hr =>
    have hr : s.inReset = false := by simpa using hr
    split at h
    · exact .inl (Host.Outcome.next.inj h).symm
    · next p hp =>
      unfold runTurn at h
      split at h
      · next i hi =>
        refine .inr (.inr ⟨p, i, ?_⟩)
        unfold settleResult at h
        split at h
        · next u hu => exact ⟨u, hp, hr, hi, hu, (Host.Outcome.next.inj h).symm⟩
        · cases h
        · cases h
      · next e he => exact .inr (.inl ⟨p, e, hp, hr, he, (Host.Outcome.next.inj h).symm⟩)

/-- A settled turn is the turn itself, or the unspecified result of a completed command the host interfered with. -/
theorem settle_cases (s : State) :
    settle s = s ∨ (s.tainted = true ∧ s.phase = .idle ∧ settle s = scramble s) := by
  unfold settle
  split
  · next h => exact .inr ⟨by simp_all, by simp_all, rfl⟩
  · exact .inl rfl

theorem settle_of_untainted {s : State} (h : s.tainted = false) : settle s = s := by simp [settle, h]

end Sys2Proof.Machine
end

