-- ==== Sys2Proof/Tests/Slice0.lean ====
section
/-! SUPPORT. The model's tests. Expected values are those of spec/95_test_vectors.md and of the tables and examples of the
rules; none comes from the model. After them, states that meet the hypotheses of every statement. -/

namespace Sys2Proof.Tests
open Sys2Proof.Machine
-- One test at a time: run side by side, tests that ask the kernel wait for each other, a thread and its stack for each.
set_option Elab.async false

/-! ### Helpers -/

/-- Reset, with bytes stored. -/
def stored (ps : List (Nat × List Byte)) : State := ps.foldl (fun s p => s.writeBytes p.1 p.2) State.reset

/-- A command word accepted with its four operands, over stored bytes. -/
def accepted (w src slen dst cap : Word) (ps : List (Nat × List Byte)) : State :=
  let s := stored ps
  { s with csr := { s.csr with srcAddr := src, srcLen := slen, dstAddr := dst, dstCap := cap } }.accept w

/-- The completion a turn shows: code, RES_LEN, ERR_INFO0, ERR_INFO1, and the bytes from an address on. -/
def shows (r : Result) (code len i0 i1 a : Nat) (bs : List Byte) : Bool :=
  match r with
  | .next t => t.csr.err.toNat == code && t.csr.resLen.toNat == len && t.csr.errInfo0.toNat == i0 &&
      t.csr.errInfo1.toNat == i1 && t.csr.done && !t.csr.busy && t.phase == .idle && t.bytes a bs.length == bs
  | .fault _ => false
  | .refused _ => false

/-- A test on the next state. -/
def nextIs (r : Result) (p : State → Bool) : Bool :=
  match r with
  | .next t => p t
  | .fault _ => false
  | .refused _ => false

/-- The decoder under the default parameters. -/
def word (w : Word) : Option Instr := decodeTableWord 32 w.toNat

/-- RTP headers H1 and H2 of 95_test_vectors.md §0. -/
def headerH1 : List Byte := [0x80, 0x92, 0x00, 0x01, 0x00, 0x00, 0x00, 0xA0, 0x11, 0x22, 0x33, 0x44]
def headerH2 : List Byte := [0x80, 0x00, 0x12, 0x34, 0x00, 0x00, 0x01, 0x40, 0xAA, 0xBB, 0xCC, 0xDD]

/-- An RTP command in the middle: packet at 0, output at 0x400. -/
def rtpAt (w : Word) (slen : Word) (p : Position) (c : Option Context) (q : Port) (ps : List (Nat × List Byte)) : State :=
  { accepted w 0 slen 0x400 4096 ps with phase := .run p, ctx := c, port := q }

/-! ### Well-formedness: the one check, refused (00_scope.md R9) -/

def noAlawRtp : Config := { Config.default with alawRtp := false }
theorem test_wellFormed_refuses_rtpdA : wellFormed noAlawRtp (.rtpdA false 1) = false := by decide
theorem test_wellFormed_refuses_rtpeA : wellFormed noAlawRtp (.rtpeA true 0) = false := by decide
theorem test_wellFormed_accepts_cencA : wellFormed noAlawRtp .cencA = true := by decide
theorem test_decode_refuses_alaw_rtp : decode noAlawRtp 0x00000036 = .error .alawRtpAbsent := by decide

/-! ### Decoding: the bit patterns of 30_encoding.md R55, a word for every constructor -/

theorem test_decode_cencU : word 0b00000000000000000000000000000001 = some .cencU := by decide
theorem test_decode_cencA : word 0b00000000000000000000000000010001 = some .cencA := by decide
theorem test_decode_cdecU : word 0b00000000000000000000000000000010 = some .cdecU := by decide
theorem test_decode_cdecA : word 0b00000000000000000000000000010010 = some .cdecA := by decide
theorem test_decode_h2n : word 0b00000000000000000000000000000011 = some .h2n := by decide
theorem test_decode_n2h : word 0b00000000000000000000000000000100 = some .n2h := by decide
theorem test_decode_mix : word 0b00000000000000000000000000000101 = some .mix := by decide
/-- FCNT 3, FCDEF 0: `rtpd.u 3` of R57. -/
theorem test_decode_rtpdU : word 0b00000000000000110000000000000110 = some (.rtpdU false 3) := by decide
/-- FCNT all ones, FCDEF 1. -/
theorem test_decode_rtpdA : word 0b11111111111111110000000000110110 = some (.rtpdA true 0xFFFF) := by decide
/-- FCNT bit 31 only. -/
theorem test_decode_rtpeU : word 0b10000000000000000000000000000111 = some (.rtpeU false 0x8000) := by decide
/-- FCNT 0, FCDEF 1. -/
theorem test_decode_rtpeA : word 0b00000000000000000000000000110111 = some (.rtpeA true 0) := by decide
/-- The illegal words of 95_test_vectors.md §2.1. -/
theorem test_decode_illegal : [0x0, 0x21, 0x10001, 0x13, 0x15, 0x10003, 0x40, 0x8, 0xF].all
    (fun w => word w == none) = true := by decide
/-- The counts of §2.1: the default whatever FCNT, 0, -1, -32768. -/
theorem test_frame_counts : [frameCount true 0xFFFF, frameCount false 0, frameCount false 0xFFFF, frameCount false 0x8000] =
    [2, 0, -1, -32768] := by decide

/-! ### Sample functions -/

/-- ULAW_TABLE of 40_companding.md R62. -/
def ulawTable : List Int :=
  [-32124, -31100, -30076, -29052, -28028, -27004, -25980, -24956, -23932, -22908, -21884, -20860, -19836, -18812, -17788, -16764] ++
  [-15996, -15484, -14972, -14460, -13948, -13436, -12924, -12412, -11900, -11388, -10876, -10364, -9852, -9340, -8828, -8316] ++
  [-7932, -7676, -7420, -7164, -6908, -6652, -6396, -6140, -5884, -5628, -5372, -5116, -4860, -4604, -4348, -4092] ++
  [-3900, -3772, -3644, -3516, -3388, -3260, -3132, -3004, -2876, -2748, -2620, -2492, -2364, -2236, -2108, -1980] ++
  [-1884, -1820, -1756, -1692, -1628, -1564, -1500, -1436, -1372, -1308, -1244, -1180, -1116, -1052, -988, -924] ++
  [-876, -844, -812, -780, -748, -716, -684, -652, -620, -588, -556, -524, -492, -460, -428, -396] ++
  [-372, -356, -340, -324, -308, -292, -276, -260, -244, -228, -212, -196, -180, -164, -148, -132] ++
  [-120, -112, -104, -96, -88, -80, -72, -64, -56, -48, -40, -32, -24, -16, -8, 0] ++
  [32124, 31100, 30076, 29052, 28028, 27004, 25980, 24956, 23932, 22908, 21884, 20860, 19836, 18812, 17788, 16764] ++
  [15996, 15484, 14972, 14460, 13948, 13436, 12924, 12412, 11900, 11388, 10876, 10364, 9852, 9340, 8828, 8316] ++
  [7932, 7676, 7420, 7164, 6908, 6652, 6396, 6140, 5884, 5628, 5372, 5116, 4860, 4604, 4348, 4092] ++
  [3900, 3772, 3644, 3516, 3388, 3260, 3132, 3004, 2876, 2748, 2620, 2492, 2364, 2236, 2108, 1980] ++
  [1884, 1820, 1756, 1692, 1628, 1564, 1500, 1436, 1372, 1308, 1244, 1180, 1116, 1052, 988, 924] ++
  [876, 844, 812, 780, 748, 716, 684, 652, 620, 588, 556, 524, 492, 460, 428, 396] ++
  [372, 356, 340, 324, 308, 292, 276, 260, 244, 228, 212, 196, 180, 164, 148, 132] ++
  [120, 112, 104, 96, 88, 80, 72, 64, 56, 48, 40, 32, 24, 16, 8, 0]

/-- ALAW_TABLE of R63. -/
def alawTable : List Int :=
  [-5504, -5248, -6016, -5760, -4480, -4224, -4992, -4736, -7552, -7296, -8064, -7808, -6528, -6272, -7040, -6784] ++
  [-2752, -2624, -3008, -2880, -2240, -2112, -2496, -2368, -3776, -3648, -4032, -3904, -3264, -3136, -3520, -3392] ++
  [-22016, -20992, -24064, -23040, -17920, -16896, -19968, -18944, -30208, -29184, -32256, -31232, -26112, -25088, -28160, -27136] ++
  [-11008, -10496, -12032, -11520, -8960, -8448, -9984, -9472, -15104, -14592, -16128, -15616, -13056, -12544, -14080, -13568] ++
  [-344, -328, -376, -360, -280, -264, -312, -296, -472, -456, -504, -488, -408, -392, -440, -424] ++
  [-88, -72, -120, -104, -24, -8, -56, -40, -216, -200, -248, -232, -152, -136, -184, -168] ++
  [-1376, -1312, -1504, -1440, -1120, -1056, -1248, -1184, -1888, -1824, -2016, -1952, -1632, -1568, -1760, -1696] ++
  [-688, -656, -752, -720, -560, -528, -624, -592, -944, -912, -1008, -976, -816, -784, -880, -848] ++
  [5504, 5248, 6016, 5760, 4480, 4224, 4992, 4736, 7552, 7296, 8064, 7808, 6528, 6272, 7040, 6784] ++
  [2752, 2624, 3008, 2880, 2240, 2112, 2496, 2368, 3776, 3648, 4032, 3904, 3264, 3136, 3520, 3392] ++
  [22016, 20992, 24064, 23040, 17920, 16896, 19968, 18944, 30208, 29184, 32256, 31232, 26112, 25088, 28160, 27136] ++
  [11008, 10496, 12032, 11520, 8960, 8448, 9984, 9472, 15104, 14592, 16128, 15616, 13056, 12544, 14080, 13568] ++
  [344, 328, 376, 360, 280, 264, 312, 296, 472, 456, 504, 488, 408, 392, 440, 424] ++
  [88, 72, 120, 104, 24, 8, 56, 40, 216, 200, 248, 232, 152, 136, 184, 168] ++
  [1376, 1312, 1504, 1440, 1120, 1056, 1248, 1184, 1888, 1824, 2016, 1952, 1632, 1568, 1760, 1696] ++
  [688, 656, 752, 720, 560, 528, 624, 592, 944, 912, 1008, 976, 816, 784, 880, 848]

theorem test_ulaw_table : (List.range 256).map (fun c => (ulawDec (BitVec.ofNat 8 c)).toInt) = ulawTable := by decide +kernel
theorem test_alaw_table : (List.range 256).map (fun c => (alawDec (BitVec.ofNat 8 c)).toInt) = alawTable := by decide +kernel

/-- The corner cases of R60. -/
theorem test_ulaw_enc : [(0 : Int), 1, 2, -1, 32767, -32768, 32635, 32636].map (fun x => ulawEnc (BitVec.ofInt 16 x)) =
    [0xFF, 0xFF, 0xFF, 0x7F, 0x80, 0x00, 0x80, 0x80] := by decide
/-- The corner cases of R61. -/
theorem test_alaw_enc : [(0 : Int), 15, -1, -16, 32767, -32768].map (fun x => alawEnc (BitVec.ofInt 16 x)) =
    [0xD5, 0xD5, 0x55, 0x55, 0xAA, 0x2A] := by decide
/-- The STUB_RAMP payload of 95_test_vectors.md §2.7. -/
theorem test_ramp_payload : (List.range 80).map (fun k => ulawEnc (BitVec.ofInt 16 (400 * ((k : Int) - 40)))) =
  [0x10, 0x11, 0x12, 0x12, 0x13, 0x14, 0x15, 0x15, 0x16, 0x17, 0x18, 0x19, 0x19, 0x1A, 0x1B, 0x1C, 0x1C, 0x1D, 0x1E, 0x1F] ++
  [0x20, 0x21, 0x23, 0x24, 0x26, 0x28, 0x29, 0x2B, 0x2C, 0x2E, 0x2F, 0x32, 0x35, 0x39, 0x3C, 0x3F, 0x44, 0x4B, 0x52, 0x5F] ++
  [0xFF, 0xDF, 0xD2, 0xCB, 0xC4, 0xBF, 0xBC, 0xB9, 0xB5, 0xB2, 0xAF, 0xAE, 0xAC, 0xAB, 0xA9, 0xA8, 0xA6, 0xA4, 0xA3, 0xA1] ++
  [0xA0, 0x9F, 0x9E, 0x9D, 0x9C, 0x9C, 0x9B, 0x9A, 0x99, 0x99, 0x98, 0x97, 0x96, 0x95, 0x95, 0x94, 0x93, 0x92, 0x92, 0x91] := by decide +kernel
/-- The SCALE values of §2.6. -/
theorem test_scale : [((3 : Int), 2), (-3, 2), (1500, 2), (3000, 2), (2000, 2), (60000, 2), (-65536, 2), (7, 4), (-7, 4), (10, 3),
    (98301, 3), (-12, 1)].map (fun p => scale .trunc p.1 p.2) =
    [2, -2, 1060, 2121, 1414, 42426, -46340, 3, -3, 5, 56754, -12] := by decide +kernel

/-! ### Buffer commands: one step, the examples of R66-R72 and the vectors of §2.4, §2.5 -/

theorem test_cencU : shows (step (accepted 0x01 0 6 0x100 3 [(0, [0x00, 0x00, 0xFF, 0xFF, 0x18, 0xFC])]))
    0x00 3 0 0 0x100 [0xFF, 0x7F, 0x4E] = true := by decide +kernel
theorem test_cencU_odd_address : shows (step (accepted 0x01 1 2 0x100 1 [(1, [0xE8, 0x03])]))
    0x00 1 0 0 0x100 [0xCE] = true := by decide +kernel
theorem test_cencA : shows (step (accepted 0x11 0 6 0x100 3 [(0, [0x00, 0x00, 0xFF, 0xFF, 0x18, 0xFC])]))
    0x00 3 0 0 0x100 [0xD5, 0x55, 0x7A] = true := by decide +kernel
/-- Program P4: OddLength, ERR_INFO0 = 3. -/
theorem test_cenc_odd_length : shows (step (accepted 0x01 0 3 0x100 16 [])) 0x01 0 3 0 0 [] = true := by decide +kernel
theorem test_cdecU : shows (step (accepted 0x02 0 3 0x100 6 [(0, [0x00, 0xFF, 0x80])]))
    0x00 6 0 0 0x100 [0x84, 0x82, 0x00, 0x00, 0x7C, 0x7D] = true := by decide +kernel
theorem test_cdec_too_small : shows (step (accepted 0x02 0 3 0x100 5 [(0, [0x00, 0xFF, 0x80])])) 0x12 0 6 5 0 [] = true := by
  decide +kernel
theorem test_cdecA : shows (step (accepted 0x12 0 3 0x100 6 [(0, [0xD5, 0x55, 0x2A])]))
    0x00 6 0 0 0x100 [0x08, 0x00, 0xF8, 0xFF, 0x00, 0x82] = true := by decide +kernel
theorem test_h2n : shows (step (accepted 0x03 0 4 0x100 16 [(0, [0x34, 0x12, 0xCD, 0xAB])]))
    0x00 4 0 0 0x100 [0x12, 0x34, 0xAB, 0xCD] = true := by decide +kernel
theorem test_h2n_too_short : shows (step (accepted 0x03 0 1 0x100 16 [])) 0x02 0 1 0 0 [] = true := by decide +kernel
theorem test_n2h : shows (step (accepted 0x04 0x100 4 0x200 4 [(0x100, [0x12, 0x34, 0xAB, 0xCD])]))
    0x00 4 0 0 0x200 [0x34, 0x12, 0xCD, 0xAB] = true := by decide +kernel
/-- In place: RegionOverlap, and the bytes stay. -/
theorem test_h2n_in_place : shows (step (accepted 0x03 0 4 0 4 [(0, [0x34, 0x12, 0xCD, 0xAB])]))
    0x13 0 0 0 0 [0x34, 0x12, 0xCD, 0xAB] = true := by decide +kernel
/-- The illegal word 0x13: IllegalCommand with the word. -/
theorem test_illegal_word : shows (step (accepted 0x13 0 4 0x100 16 [])) 0x10 0 0x13 0 0 [] = true := by decide +kernel

/-! ### MIX (§2.6) -/

/-- The source example: 1000, -2000, 3000 and 500, 500. -/
def mixExample : List (Nat × List Byte) :=
  [(0, [0x00, 0x01, 0x00, 0x00, 0x06, 0x00, 0x00, 0x80]), (8, [0x00, 0x02, 0x00, 0x00, 0x04, 0x00, 0x00, 0x80]),
    (0x100, [0xE8, 0x03, 0x30, 0xF8, 0xB8, 0x0B]), (0x200, [0xF4, 0x01, 0xF4, 0x01])]
theorem test_mix : shows (step (accepted 0x05 0 2 0x800 64 mixExample))
    0x00 6 0 0 0x800 [0x24, 0x04, 0xDC, 0xFB, 0x49, 0x08] = true := by decide +kernel
/-- One channel of 32767, -32768, 5 is copied. -/
theorem test_mix_bypass : shows (step (accepted 0x05 0 1 0x800 64 [(0, [0x00, 0x01, 0x00, 0x00, 0x06, 0x00, 0x00, 0x80]),
    (0x100, [0xFF, 0x7F, 0x00, 0x80, 0x05, 0x00])])) 0x00 6 0 0 0x800 [0xFF, 0x7F, 0x00, 0x80, 0x05, 0x00] = true := by
  decide +kernel

/-! ### RTP (§2.7): each turn by itself, with the codec's answer in the port -/

/-- The first turn issues Acquire and holds. -/
theorem test_rtpdU_acquires : nextIs (step (accepted 0x26 0 32 0x400 4096 [(0, headerH1)]))
    (fun t => t.port == .waiting (.acquire .dec) && t.codecLog == [.acquire .dec] && t.csr.busy && !t.csr.done) = true := by
  decide +kernel
/-- R90: while an abandoned answer is out the first turn waits; its arrival lets Acquire go out. -/
theorem test_rtpdU_waits_for_abandoned :
    let s := { accepted 0x26 0 32 0x400 4096 [(0, headerH1)] with abandoned := 1 };
    nextIs (step s) (fun t => t == s) = true ∧
    nextIs (step { codecLateTurn s with inputs := [] }) (fun t => t.port == .waiting (.acquire .dec)) = true := by decide +kernel
/-- The last decoded frame of zeros: 80 times 0xFF, RES_LEN = 172. -/
theorem test_rtpdU_completes : shows (step (rtpAt 0x26 32 (.frame 1 92) (some ⟨.dec, 7⟩)
    (.answered (.pcm (Vector.replicate 80 0))) [])) 0x00 172 0 0 0x45C (List.replicate 80 0xFF) = true := by decide +kernel
/-- Acquire answered: the header with PT 8, marker kept, and frame 0 sent. -/
theorem test_rtpdA_header : nextIs (step (rtpAt 0x36 32 .acquiring none (.answered (.handle 7))
    [(0, headerH1), (12, List.replicate 20 0)]))
    (fun t => t.bytes 0x400 12 == [0x80, 0x88, 0x00, 0x01, 0x00, 0x00, 0x00, 0xA0, 0x11, 0x22, 0x33, 0x44] &&
      t.port == .waiting (.decode 7 (List.replicate 10 0))) = true := by decide +kernel
/-- A-law zeros: 80 times 0xD5. -/
theorem test_rtpdA_completes : shows (step (rtpAt 0x36 32 (.frame 1 92) (some ⟨.dec, 7⟩)
    (.answered (.pcm (Vector.replicate 80 0))) [])) 0x00 172 0 0 0x45C (List.replicate 80 0xD5) = true := by decide +kernel
/-- The encode direction: header byte 1 becomes 18, and 80 μ-law codes 0xFF reach the codec as zeros. -/
theorem test_rtpeU_header : nextIs (step (rtpAt 0x27 172 .acquiring none (.answered (.handle 7))
    [(0, headerH2), (12, List.replicate 80 0xFF)]))
    (fun t => t.bytes 0x400 12 == [0x80, 0x12, 0x12, 0x34, 0x00, 0x00, 0x01, 0x40, 0xAA, 0xBB, 0xCC, 0xDD] &&
      t.port == .waiting (.encode 7 (List.replicate 80 0))) = true := by decide +kernel
/-- A zero-length second frame after ten bytes: RES_LEN = 22. -/
theorem test_rtpeU_completes : shows (step (rtpAt 0x27 172 (.frame 1 22) (some ⟨.enc, 7⟩)
    (.answered (.bits ⟨0, Vector.replicate 10 0⟩)) [])) 0x00 22 0 0 0 [] = true := by decide +kernel
/-- A-law codes 0xD5 reach the codec as samples of value 8. -/
theorem test_rtpeA_samples : nextIs (step (rtpAt 0x37 172 .acquiring none (.answered (.handle 7))
    [(0, headerH2), (12, List.replicate 80 0xD5)]))
    (fun t => t.port == .waiting (.encode 7 (List.replicate 80 8))) = true := by decide +kernel
/-- STUB_E2's third frame of `rtpe.a 3`: two bytes at offset 16, RES_LEN = 18. -/
theorem test_rtpeA_completes : shows (step (rtpAt 0x00030017 252 (.frame 2 16) (some ⟨.enc, 7⟩)
    (.answered (.bits ⟨2, Vector.replicate 10 3⟩)) [])) 0x00 18 0 0 0x410 [0x03, 0x03] = true := by decide +kernel
/-- Frame 1 fails: CodecFrameFailed(1), RES_LEN = 0, and one Release. -/
theorem test_frame_failure : shows (step (rtpAt 0x26 32 (.frame 1 92) (some ⟨.dec, 7⟩) (.answered .fail) []))
    0x09 0 1 0 0 [] = true := by decide +kernel

/-! ### Host port and reset -/

/-- Program P1: a 32-bit BUF write stands little-endian. -/
theorem test_host_write : (hostTurn (.write .w32 0x10000 0xFC1803E8) State.reset).bytes 0 4 = [0xE8, 0x03, 0x18, 0xFC] := by
  decide +kernel
/-- §2.8: a reset while a context is held releases it and clears the CSRs. -/
theorem test_reset_releases : nextIs (step { rtpAt 0x26 32 (.frame 0 12) (some ⟨.dec, 7⟩) (.waiting (.decode 7 [])) [] with
    inReset := true, inputs := [.resetDeassert] })
    (fun t => t.codecLog == [.release 7] && statusWord t.csr == 0 && t.csr.cmd == 0 && t.abandoned == 1) = true := by
  decide +kernel
/-- §2.8: a CMD write while BUSY sets REJ and changes nothing else. -/
theorem test_cmd_rejected : statusWord (hostTurn (.write .w32 0x0C 0x03)
    (rtpAt 0x26 32 .acquiring none (.waiting (.acquire .dec)) [])).csr = 0x00000005 := by decide +kernel

/-! ### Witnesses: a concrete state and operands for the hypotheses of every statement, clause by clause -/

/-- An invariant's witness for a command just accepted: nothing is held, nothing is out. -/
theorem inv_of_accepted {s : State} {c : Csr} (hc : s.csr = c) (hp : s.phase = .run .start) (hq : s.ctx = none ∧ s.port = .quiet)
    (ha : s.abandoned = 0) (hb : s.buf = []) (h : c.busy = true ∧ c.done = false ∧ c.err = 0 ∧ c.resLen = 0 ∧ c.errInfo0 = 0 ∧ c.errInfo1 = 0) :
    s.Inv := by
  refine ⟨?_, ?_, ⟨?_, fun _ => ?_, ?_⟩, ?_, ?_, fun _ => ha⟩
  · rw [State.MemoryCanonical, hb]; rfl
  · rw [State.MemoryInBuf, hb]; exact fun _ h => nomatch h
  · rw [hc, hp]; simp [h]
  · rw [hc]; exact h.2
  · rw [hc, h.2.2.1]; decide
  · rw [State.Sequenced, hp]; exact hq
  · rw [ha, hq.2]; decide

theorem witness_DecodeOfEncodeIsIdentity : wellFormed Config.default (.rtpeA false 0xFFFF) = true := by decide
theorem witness_EncodeOfDecodeIsIdentity : decode Config.default 0xFFFF0017 = .ok (.rtpeA false 0xFFFF) := by decide
theorem witness_FrameCountOfRtpWord :
    (decode Config.default 0x80000007 = .ok (.rtpeU false 0x8000) ∧
      rtpCommand (.rtpeU false 0x8000) = some (.enc, .mu, -32768)) ∧
    (decode Config.default 0xFFFF0026 = .ok (.rtpdU true 0xFFFF) ∧ rtpCommand (.rtpdU true 0xFFFF) = some (.dec, .mu, 2)) ∧
    (decode Config.default 0x00000006 = .ok (.rtpdU false 0) ∧ rtpCommand (.rtpdU false 0) = some (.dec, .mu, 0) ∧
      (accepted 0x06 0 32 0x400 172 []).phase = .run .start ∧ (accepted 0x06 0 32 0x400 172 []).ctx = none ∧ (0 : Int) ≤ 0) := by
  decide
theorem witness_CompandingRoundTripOnCodes : (0x7E : Byte) ≠ 0x7F ∧ (0x80 : Byte) ≠ 0x7F := by decide
theorem witness_CodeSignBitAndClamp : 32636 ≤ (32636 : Sample).toInt ∧ (-32636 : Sample).toInt ≤ -32636 := by decide
theorem witness_SwapMovesPairsAndIsSelfInverse : 2 * 0 + 1 < ([0x12, 0x34] : List Byte).length := by decide
theorem witness_ScaleTruncatesTheQuotient : 1 ≤ 1 := by decide
theorem witness_AccumulatorIsTheExactSum : (accepted 0x05 0 65536 0x800 64 []).srcLength ≤ 65536 := by decide

/-- Three samples whose codes end exactly at the end of BUF. -/
theorem witness_CencEncodesEverySample : (Instr.cencU = .cencU ∧ Law.mu = .mu) ∧
    (accepted 0x01 0 6 65533 3 []).srcLength % 2 = 0 ∧ BufferReady (accepted 0x01 0 6 65533 3 []) 3 := by decide
theorem witness_CencReportsTheFirstError :
    (accepted 0x01 0 1 0 0 []).srcLength % 2 = 1 ∧
    ((accepted 0x01 65535 2 0 1 []).srcLength % 2 = 0 ∧ ¬ InRange (accepted 0x01 65535 2 0 1 []) 65535 2) ∧
    (InRange (accepted 0x01 65534 2 0 0 []) 65534 2 ∧ (accepted 0x01 65534 2 0 0 []).dstCapacity < 1) ∧
    (InRange (accepted 0x01 0 2 65536 1 []) 0 2 ∧ 1 ≤ (accepted 0x01 0 2 65536 1 []).dstCapacity ∧
      ¬ InRange (accepted 0x01 0 2 65536 1 []) 65536 1) ∧
    (InRange (accepted 0x01 0 2 1 1 []) 0 2 ∧ DstFits (accepted 0x01 0 2 1 1 []) 1 ∧ Overlap 0 2 1 1) := by decide
theorem witness_CdecDecodesEveryCode : (Instr.cdecA = .cdecA ∧ Law.a = .a) ∧ BufferReady (accepted 0x12 0 1 65534 2 []) 2 := by
  decide
theorem witness_CdecReportsTheFirstError :
    ¬ InRange (accepted 0x02 65536 1 0 2 []) 65536 1 ∧
    (InRange (accepted 0x02 65535 1 0 1 []) 65535 1 ∧ (accepted 0x02 65535 1 0 1 []).dstCapacity < 2) ∧
    (InRange (accepted 0x02 0 1 65535 2 []) 0 1 ∧ 2 ≤ (accepted 0x02 0 1 65535 2 []).dstCapacity ∧
      ¬ InRange (accepted 0x02 0 1 65535 2 []) 65535 2) ∧
    (InRange (accepted 0x02 1 1 0 2 []) 1 1 ∧ DstFits (accepted 0x02 1 1 0 2 []) 2 ∧ Overlap 1 1 0 2) := by decide
theorem witness_SwapCommandsExchangeEveryPair :
    2 ≤ (accepted 0x03 0 2 2 2 []).srcLength ∧ (accepted 0x03 0 2 2 2 []).srcLength % 2 = 0 ∧
    BufferReady (accepted 0x03 0 2 2 2 []) 2 := by decide
theorem witness_SwapCommandsReportTheFirstError :
    (accepted 0x03 0 1 2 2 []).srcLength < 2 ∧ (2 ≤ (accepted 0x04 0 3 4 4 []).srcLength ∧ (accepted 0x04 0 3 4 4 []).srcLength % 2 = 1) ∧
    (2 ≤ (accepted 0x03 65535 2 2 2 []).srcLength ∧ (accepted 0x03 65535 2 2 2 []).srcLength % 2 = 0 ∧
      ¬ InRange (accepted 0x03 65535 2 2 2 []) 65535 2) ∧
    (InRange (accepted 0x03 0 2 2 1 []) 0 2 ∧ (accepted 0x03 0 2 2 1 []).dstCapacity < 2) ∧
    (InRange (accepted 0x03 0 2 65535 2 []) 0 2 ∧ 2 ≤ (accepted 0x03 0 2 65535 2 []).dstCapacity ∧
      ¬ InRange (accepted 0x03 0 2 65535 2 []) 65535 2) ∧
    (InRange (accepted 0x04 0 2 1 2 []) 0 2 ∧ DstFits (accepted 0x04 0 2 1 2 []) 2 ∧ Overlap 0 2 1 2) := by decide

/-- A channel-table entry: the low byte of ADDR's two, VALID, LEN below 256. -/
def entry (lo hi valid len : Byte) : List Byte := [lo, hi, 0, 0, len, 0, 0, valid]

/-- One valid channel of two bytes at 0x100; the state for c entries. -/
def mixState (c dst cap : Word) (ps : List (Nat × List Byte)) : State := accepted 0x05 0 c dst cap ps

theorem witness_MixWritesTheScaledSums : (mixState 2 0x800 6 mixExample).hw.maxChannels ≤ 65536 ∧
    MixReady (mixState 2 0x800 6 mixExample) ∧ (mixState 2 0x800 6 mixExample).srcLength ≠ 1 ∧
    0 < activeCount (mixState 2 0x800 6 mixExample).hw (mixState 2 0x800 6 mixExample).channels := by decide +kernel
theorem witness_MixCopiesASingleChannel : MixReady (mixState 1 0x800 2 [(0, entry 0 1 0x80 2)]) ∧
    (mixState 1 0x800 2 [(0, entry 0 1 0x80 2)]).srcLength = 1 ∧
    0 < activeCount Config.default (mixState 1 0x800 2 [(0, entry 0 1 0x80 2)]).channels := by decide +kernel
/-- No entry at all, and one entry that is not valid. -/
theorem witness_MixWithoutActiveChannelIsEmpty :
    (MixReady (mixState 0 0 0 []) ∧ activeCount Config.default (mixState 0 0 0 []).channels = 0) ∧
    (MixReady (mixState 1 0 0 [(0, entry 0 1 0 6)]) ∧
      activeCount Config.default (mixState 1 0 0 [(0, entry 0 1 0 6)]).channels = 0) :=
  ⟨⟨by decide +kernel, by decide +kernel⟩, by decide +kernel, by decide +kernel⟩
theorem witness_MixReportsTheFirstError_table :
    (mixState 33 0 0 []).hw.maxChannels < (mixState 33 0 0 []).srcLength ∧
    ((accepted 0x05 65529 1 0 0 []).srcLength ≤ 32 ∧ ¬ InRange (accepted 0x05 65529 1 0 0 []) 65529 8) := by decide
/-- Entry 1 is the first with an odd length; entry 1 is the first out of range (0xFF00 + 254 fits, 0xFFFE + 4 does not). -/
theorem witness_MixReportsTheFirstError_channels :
    (let s := mixState 2 0x800 64 [(0, entry 0 1 0x80 2), (8, entry 0 2 0x80 3)];
      (s.srcLength ≤ s.hw.maxChannels ∧ InRange s s.srcStart (8 * s.srcLength) ∧ 1 < s.srcLength) ∧
      (s.channel 1).valid = true ∧ (s.channel 1).len % 2 = 1 ∧
      ∀ l < 1, (s.channel l).valid = true → (s.channel l).len % 2 = 0) ∧
    (let s := mixState 2 0x800 64 [(0, entry 0 0xFF 0x80 254), (8, entry 0xFE 0xFF 0x80 4)];
      (∀ j < s.srcLength, (s.channel j).valid = true → (s.channel j).len % 2 = 0) ∧ 1 < s.srcLength ∧
      (s.channel 1).valid = true ∧ ¬ InRange s (s.channel 1).start (s.channel 1).len ∧
      ∀ l < 1, (s.channel l).valid = true → InRange s (s.channel l).start (s.channel l).len) := by decide +kernel
theorem witness_MixReportsTheFirstError_output :
    (let s := mixState 1 0x800 1 [(0, entry 0 1 0x80 2)];
      (∀ j < s.srcLength, (s.channel j).valid = true → InRange s (s.channel j).start (s.channel j).len) ∧
      s.dstCapacity < mixOutputLength s) ∧
    (let s := mixState 1 65535 2 [(0, entry 0 1 0x80 2)];
      mixOutputLength s ≤ s.dstCapacity ∧ ¬ InRange s s.dstStart (mixOutputLength s)) ∧
    (let s := mixState 1 7 2 [(0, entry 0 1 0x80 2)];
      DstFits s (mixOutputLength s) ∧ Overlap s.srcStart (8 * s.srcLength) s.dstStart (mixOutputLength s)) ∧
    (let s := mixState 2 0x201 2 [(0, entry 0 1 0x80 2), (8, entry 0 2 0x80 2)];
      DstFits s (mixOutputLength s) ∧ ¬ Overlap s.srcStart (8 * s.srcLength) s.dstStart (mixOutputLength s) ∧ 1 < s.srcLength ∧
      (s.channel 1).valid = true ∧ Overlap (s.channel 1).start (s.channel 1).len s.dstStart (mixOutputLength s) ∧
      ∀ l < 1, (s.channel l).valid = true → ¬ Overlap (s.channel l).start (s.channel l).len s.dstStart (mixOutputLength s)) := by
  decide +kernel

/-- `rtpd.u`, 32 bytes in, 172 bytes out, the output ending at the end of BUF. -/
def rtpdReady : State := accepted 0x26 0 32 65364 172 [(0, headerH1)]
/-- `rtpe.a 1`, 92 bytes in, at most 22 out. -/
def rtpeReady : State := accepted 0x00010017 0 92 0x400 22 [(0, headerH2)]
theorem rtpdReady_ready : RtpReady rtpdReady .dec 2 := by decide +kernel
theorem rtpeReady_ready : RtpReady rtpeReady .enc 1 := by decide +kernel

theorem witness_RtpCommandsAcquireAfterTheChecks :
    (rtpCommand (.rtpdU true 0) = some (.dec, .mu, 2) ∧ rtpdReady.phase = .run .start ∧ RtpReady rtpdReady .dec 2 ∧
      rtpdReady.abandoned = 0) ∧
    (let s := { rtpeReady with abandoned := 1 };
      rtpCommand (.rtpeA false 1) = some (.enc, .a, 1) ∧ s.phase = .run .start ∧ RtpReady s .enc 1 ∧ s.abandoned ≠ 0) :=
  ⟨⟨by decide, rfl, rtpdReady_ready, rfl⟩, ⟨by decide, rfl, rtpeReady_ready, by decide⟩⟩
theorem witness_RtpCommandsReportTheFirstError_packet :
    (rtpCommand (.rtpdU false 0) = some (.dec, .mu, 0) ∧ (accepted 0x06 0 32 0x400 172 []).phase = .run .start ∧ (0 : Int) ≤ 0) ∧
    ((0 : Int) < 2 ∧ ¬ InRange (accepted 0x26 65505 32 0 172 []) 65505 32) ∧
    (InRange (accepted 0x26 0 31 0x400 172 []) 0 31 ∧ (accepted 0x26 0 31 0x400 172 []).srcLength < 12 + 10 * (2 : Int).toNat) ∧
    (let s := accepted 0x26 0 32 0x400 172 [(0, [0x40, 0x92])];
      12 + 10 * (2 : Int).toNat ≤ s.srcLength ∧ s.rtpVersionField ≠ 2) ∧
    (let s := accepted 0x26 0 32 0x400 172 [(0, [0x80, 0x00])];
      12 + 10 * (2 : Int).toNat ≤ s.srcLength ∧ s.rtpVersionField = 2 ∧ Dir.dec = .dec ∧ s.rtpTypeField ≠ 18) := by decide +kernel
theorem witness_RtpCommandsReportTheFirstError_output :
    (let s := accepted 0x26 0 32 0x400 171 [(0, headerH1)];
      12 + 10 * (2 : Int).toNat ≤ s.srcLength ∧ s.rtpVersionField = 2 ∧ (Dir.dec = .dec → s.rtpTypeField = 18) ∧
      s.dstCapacity < 12 + 80 * (2 : Int).toNat) ∧
    (let s := accepted 0x26 0 32 65365 172 [(0, headerH1)];
      12 + 80 * (2 : Int).toNat ≤ s.dstCapacity ∧ ¬ InRange s s.dstStart (12 + 80 * (2 : Int).toNat)) ∧
    (let s := accepted 0x26 0 32 31 172 [(0, headerH1)];
      DstFits s (12 + 80 * (2 : Int).toNat) ∧ Overlap s.srcStart s.srcLength s.dstStart (12 + 80 * (2 : Int).toNat)) := by decide +kernel
theorem witness_RtpCommandsHoldUntilTheAnswer : rtpCommand (.rtpdU true 0) = some (.dec, .mu, 2) ∧
    (rtpAt 0x26 32 .acquiring none (.waiting (.acquire .dec)) []).phase = .run .acquiring ∧ Position.acquiring ≠ .start ∧
    (rtpAt 0x26 32 .acquiring none (.waiting (.acquire .dec)) []).port = .waiting (.acquire .dec) := by decide
theorem witness_AcquireAnswerWritesTheHeader : rtpCommand (.rtpeU true 0) = some (.enc, .mu, 2) ∧
    (rtpAt 0x27 172 .acquiring none (.answered (.handle 7)) []).phase = .run .acquiring ∧
    (rtpAt 0x27 172 .acquiring none (.answered (.handle 7)) []).port = .answered (.handle 7) := by decide
theorem witness_AcquireFailureReportsCodecInitFailed : rtpCommand (.rtpdA true 0) = some (.dec, .a, 2) ∧
    (rtpAt 0x36 32 .acquiring none (.answered .fail) []).phase = .run .acquiring ∧
    (rtpAt 0x36 32 .acquiring none (.answered .fail) []).ctx = none ∧
    (rtpAt 0x36 32 .acquiring none (.answered .fail) []).port = .answered .fail := by decide
theorem witness_RtpdFrameIsCompandedAndTheNextSent :
    let s := rtpAt 0x26 32 (.frame 0 12) (some ⟨.dec, 7⟩) (.answered (.pcm (Vector.replicate 80 0))) [];
    rtpCommand (.rtpdU true 0) = some (.dec, .mu, 2) ∧ s.phase = .run (.frame 0 12) ∧ s.ctx = some ⟨.dec, 7⟩ ∧
    s.port = .answered (.pcm (Vector.replicate 80 0)) ∧ 0 + 1 < (2 : Int).toNat := ⟨rfl, rfl, rfl, rfl, by decide⟩
theorem witness_RtpdCompletesOnTheLastFrame :
    let s := rtpAt 0x36 32 (.frame 1 92) (some ⟨.dec, 7⟩) (.answered (.pcm (Vector.replicate 80 0))) [];
    rtpCommand (.rtpdA true 0) = some (.dec, .a, 2) ∧ s.phase = .run (.frame 1 (12 + 80 * 1)) ∧ s.ctx = some ⟨.dec, 7⟩ ∧
    s.port = .answered (.pcm (Vector.replicate 80 0)) ∧ 1 + 1 = (2 : Int).toNat := ⟨rfl, rfl, rfl, rfl, by decide⟩
/-- A frame of length zero and one of length ten. -/
theorem witness_RtpeFrameIsAppendedAndTheNextSent :
    ∀ len : Fin 11, let s := rtpAt 0x27 172 (.frame 0 12) (some ⟨.enc, 7⟩) (.answered (.bits ⟨len, Vector.replicate 10 1⟩)) [];
    rtpCommand (.rtpeU true 0) = some (.enc, .mu, 2) ∧ s.phase = .run (.frame 0 12) ∧ s.ctx = some ⟨.enc, 7⟩ ∧
    s.port = .answered (.bits ⟨len, Vector.replicate 10 1⟩) ∧ 0 + 1 < (2 : Int).toNat :=
  fun _ => ⟨rfl, rfl, rfl, rfl, by decide⟩
theorem witness_RtpeCompletesOnTheLastFrame :
    ∀ len : Fin 11, let s := rtpAt 0x37 172 (.frame 1 22) (some ⟨.enc, 7⟩) (.answered (.bits ⟨len, Vector.replicate 10 1⟩)) [];
    rtpCommand (.rtpeA true 0) = some (.enc, .a, 2) ∧ s.phase = .run (.frame 1 22) ∧ s.ctx = some ⟨.enc, 7⟩ ∧
    s.port = .answered (.bits ⟨len, Vector.replicate 10 1⟩) ∧ 1 + 1 = (2 : Int).toNat :=
  fun _ => ⟨rfl, rfl, rfl, rfl, by decide⟩
theorem witness_FrameFailureReleasesAndReports :
    let s := rtpAt 0x27 172 (.frame 1 22) (some ⟨.enc, 7⟩) (.answered .fail) [];
    rtpCommand (.rtpeU true 0) = some (.enc, .mu, 2) ∧ s.phase = .run (.frame 1 22) ∧ s.ctx = some ⟨.enc, 7⟩ ∧
    s.port = .answered .fail := by decide
theorem witness_RtpdRewritesTheWholePacket :
    let s := { rtpdReady with inputs := rtpSchedule 2 };
    rtpCommand (.rtpdU true 0) = some (.dec, .mu, 2) ∧ decode s.hw s.latch.opWord = .ok (.rtpdU true 0) ∧
    s.phase = .run .start ∧ s.ctx = none ∧ s.port = .quiet ∧ s.abandoned = 0 ∧ s.inReset = false ∧ s.tainted = false ∧ RtpReady s .dec 2 ∧
    s.inputs = rtpSchedule (2 : Int).toNat ++ [] := ⟨rfl, rfl, rfl, rfl, rfl, rfl, rfl, rfl, rtpdReady_ready, rfl⟩
theorem witness_RtpeRewritesTheWholePacket :
    let s := { rtpeReady with inputs := rtpSchedule 1 };
    rtpCommand (.rtpeA false 1) = some (.enc, .a, 1) ∧ decode s.hw s.latch.opWord = .ok (.rtpeA false 1) ∧
    s.phase = .run .start ∧ s.ctx = none ∧ s.port = .quiet ∧ s.abandoned = 0 ∧ s.inReset = false ∧ s.tainted = false ∧ RtpReady s .enc 1 ∧
    s.inputs = rtpSchedule (1 : Int).toNat ++ [] := ⟨rfl, rfl, rfl, rfl, rfl, rfl, rfl, rfl, rtpeReady_ready, rfl⟩

theorem witness_StepRunsTheDecodedCommand :
    let s := accepted 0x03 0 2 2 2 [];
    s.inReset = false ∧ s.phase = .run .start ∧ s.tainted = false ∧ decode s.hw s.latch.opWord = .ok .h2n ∧ s.inputs = [] ∧
    ({ s with inputs := [.engine] } : State).inputs = .engine :: [] := ⟨rfl, rfl, rfl, rfl, rfl, rfl⟩
/-- Every other agent's event at the head of the list, a deassertion of an asserted reset and of one that is not. -/
theorem witness_StepRunsTheDecodedCommand_events : ∀ e : Event, ∀ b : Bool,
    let s := { State.reset with inputs := [e], inReset := b };
    s.inputs = e :: [] ∧ s.inReset = b := fun _ _ => ⟨rfl, rfl⟩
theorem witness_IllegalWordCompletesWithIllegalCommand :
    let s := accepted 0x13 0 2 2 2 [];
    s.inReset = false ∧ s.phase = .run .start ∧ s.tainted = false ∧ s.ctx = none ∧
    decode s.hw s.latch.opWord = .error .plainBits := ⟨rfl, rfl, rfl, rfl, rfl⟩
theorem witness_ErrorCompletionStep : State.reset.ctx = none ∧
    (rtpAt 0x26 32 (.frame 0 12) (some ⟨.dec, 7⟩) .quiet []).ctx = some ⟨.dec, 7⟩ := by decide
theorem witness_CmdWriteIsAcceptedOrRefused : State.reset.inReset = false ∧ State.reset.csr.busy = false ∧
    (accepted 0x03 0 2 2 2 []).inReset = false ∧ (accepted 0x03 0 2 2 2 []).csr.busy = true := by decide
theorem witness_LatchChangesOnlyAtAcceptance : step State.reset = .next State.reset := rfl
theorem witness_CsrReadsFollowTheMap : State.reset.inReset = false ∧ State.reset.hw = Config.default ∧
    (0x08, statusWord State.reset.csr) ∈ [(0x04, ctrlWord State.reset.csr), (0x08, statusWord State.reset.csr)] ∧
    0x2C ∈ [0x00, 0x20, 0x24, 0x28, 0x2C] ∧ (0x30 ≤ 0x30 ∧ 0x30 < 0x10000 ∧ 0x30 % 4 = 0) ∧ (0x30 ≤ 0xFFFC ∧ 0xFFFC < 0x10000 ∧ 0xFFFC % 4 = 0) := by decide
theorem witness_StatusReadLayout : State.reset.inReset = false := rfl
theorem witness_StatusWriteOneClears : State.reset.inReset = false := rfl
theorem witness_CtrlWriteTakesEffectAtOnce : State.reset.inReset = false := rfl
theorem witness_OperandWritesLeaveTheLatch : (accepted 0x03 0 2 2 2 []).inReset = false := rfl
/-- A narrow and a misaligned CSR access; one below BUF_BASE, one past the end, one misaligned in BUF. -/
theorem witness_IllegalHostAccessIsABusError :
    (0x00 < 0x10000 ∧ (Width.w8 ≠ .w32 ∨ 0x00 % 4 ≠ 0)) ∧ (0xFFFE < 0x10000 ∧ (Width.w32 ≠ .w32 ∨ 0xFFFE % 4 ≠ 0)) ∧
    (let s := { State.reset with hw := { Config.default with bufBase := 0x20000 } };
      0x10000 ≤ 0x10000 ∧ 0x10000 < s.hw.bufBase) ∧
    (0x10000 ≤ 0x20000 ∧ State.reset.hw.bufBase + State.reset.hw.memBytes < 0x20000 + Width.w8.bytes) ∧
    (0x10000 ≤ 0x10001 ∧ 0x10001 % Width.w16.bytes ≠ 0) := by decide
theorem witness_HostBufWriteStoresLittleEndian : State.reset.inReset = false ∧ 0x10000 ≤ 0x1FFFC ∧
    State.reset.hw.bufBase ≤ 0x1FFFC ∧ 0x1FFFC + Width.w32.bytes ≤ State.reset.hw.bufBase + State.reset.hw.memBytes ∧
    0x1FFFC % Width.w32.bytes = 0 := by decide
/-- The byte just before the destination of a running command, and just before its span after interference. -/
theorem witness_HostBufReadReturnsLittleEndian : ∀ b : Bool,
    let s := { accepted 0x03 0 2 0x100 2 [] with tainted := b };
    s.inReset = false ∧ 0x10000 ≤ 0x100FF ∧ s.hw.bufBase ≤ 0x100FF ∧
    0x100FF + Width.w8.bytes ≤ s.hw.bufBase + s.hw.memBytes ∧ 0x100FF % Width.w8.bytes = 0 ∧
    (s.csr.busy = true → ∀ k < Width.w8.bytes, s.runningDst.covers (0x100FF - s.hw.bufBase + k) = false ∧
      (s.tainted = true → 0x100FF - s.hw.bufBase + k < s.dstStart ∨
        s.dstStart + s.dstCapacity ≤ 0x100FF - s.hw.bufBase + k)) := by decide +kernel
/-- The first byte of BUF while each kind of command runs, an illegal word, and nothing. -/
theorem witness_HostWriteTaintsExactlyInsideRegions :
    (let s := accepted 0x01 0 2 0x100 2 [];
      s.inReset = false ∧ 0x10000 ≤ 0x10000 ∧ s.hw.bufBase ≤ 0x10000 ∧
      0x10000 + Width.w8.bytes ≤ s.hw.bufBase + s.hw.memBytes ∧ 0x10000 % Width.w8.bytes = 0 ∧
      0 = 0x10000 - s.hw.bufBase ∧ s.tainted = false ∧ s.csr.busy = true ∧ decode s.hw s.latch.opWord = .ok .cencU ∧
      1 = s.srcLength / 2) ∧
    (decode Config.default (accepted 0x12 0 2 0x100 4 []).latch.opWord = .ok .cdecA ∧
      4 = 2 * (accepted 0x12 0 2 0x100 4 []).srcLength) ∧
    (decode Config.default (accepted 0x04 0 2 0x100 2 []).latch.opWord = .ok .n2h ∧
      2 = (accepted 0x04 0 2 0x100 2 []).srcLength) ∧
    (rtpCommand (.rtpdU true 0) = some (.dec, .mu, 2) ∧ 172 = 12 + 80 * (2 : Int).toNat) ∧
    (rtpCommand (.rtpeA false 1) = some (.enc, .a, 1) ∧ 22 = 12 + 10 * (1 : Int).toNat) ∧
    (mixState 2 0x800 6 mixExample).srcLength ≤ (mixState 2 0x800 6 mixExample).hw.maxChannels ∧
    InRange (mixState 2 0x800 6 mixExample) 0 (8 * (mixState 2 0x800 6 mixExample).srcLength) ∧
    ¬ (mixState 33 0 0 []).srcLength ≤ (mixState 33 0 0 []).hw.maxChannels ∧
    decode Config.default (accepted 0x13 0 2 0 2 []).latch.opWord = .error .plainBits ∧
    State.reset.csr.busy = false := by decide +kernel
/-- R49: once a host write has set a MIX table's need to 0, a busy read of the old destination is still a free value. -/
theorem test_busy_read_after_interference :
    let s := hostTurn (.write .w8 0x10007 0) (mixState 1 0x800 6 [(0, entry 0 1 0x80 2), (0x800, [5])]);
    s.tainted = true ∧ s.runningDst.len = 0 ∧ s.unsettled 0x800 = true ∧ s.unsettled 0x806 = false := by decide +kernel

/-- H2N accepted, the host interfering. -/
def taintedSwap : State := { accepted 0x03 0 2 0x100 2 [] with tainted := true }
theorem witness_InterferedResultStaysInTheSpan : ∃ t, taintedSwap.Inv ∧ taintedSwap.tainted = true ∧
    engineTurn taintedSwap = .next t ∧ taintedSwap.phase ≠ .idle ∧ t.phase = .idle :=
  ⟨_, inv_of_accepted rfl rfl ⟨rfl, rfl⟩ rfl rfl (by decide), rfl, rfl, by decide, rfl⟩
theorem witness_CodecAnswersTheOutstandingRequest :
    (rtpAt 0x26 32 .acquiring none (.waiting (.acquire .dec)) []).port = .waiting (.acquire .dec) ∧
    (rtpAt 0x26 32 .acquiring none (.waiting (.decode 7 [])) []).port = .waiting (.decode 7 []) ∧
    (rtpAt 0x27 172 .acquiring none (.waiting (.encode 7 [])) []).port = .waiting (.encode 7 []) ∧
    State.reset.port = .quiet ∧
    (rtpAt 0x26 32 .acquiring none (.answered .fail) []).port = .answered .fail := by decide
/-- R89, R94: a reset that finds a handle answered and not yet taken releases it. -/
theorem test_reset_releases_untaken_handle : nextIs (step { rtpAt 0x26 32 .acquiring none (.answered (.handle 7)) [] with
    inReset := true, inputs := [.resetDeassert] }) (fun t => t.codecLog == [.release 7] && t.port == .quiet) = true := by
  decide +kernel
/-- A reset that meets a held context and an outstanding request, and one that meets neither. -/
theorem witness_ResetEventAbandonsAndReleases :
    (let s := { rtpAt 0x26 32 (.frame 0 12) (some ⟨.dec, 7⟩) (.waiting (.decode 7 [])) [] with
        inReset := true, inputs := [.resetDeassert] };
      s.inReset = true ∧ s.inputs = .resetDeassert :: [] ∧ s.ctx = some ⟨.dec, 7⟩ ∧ s.port = .waiting (.decode 7 []) ∧
      ∃ t, step s = .next t) ∧
    (let s := { State.reset with inReset := true, inputs := [.resetDeassert] };
      s.inReset = true ∧ s.inputs = .resetDeassert :: [] ∧ s.ctx = none ∧ ∃ t, step s = .next t) :=
  ⟨⟨rfl, rfl, rfl, rfl, _, rfl⟩, ⟨rfl, rfl, rfl, _, rfl⟩⟩
theorem witness_AssertedResetStopsHostAndEngine : ({ State.reset with inReset := true } : State).inReset = true := rfl
/-- A completing command with IE set, and a CTRL write after completion. -/
theorem witness_IrqRisesOnlyOnCompletionOrCtrlWrite :
    (let s := { accepted 0x05 0 0 0 0 [] with csr := { (accepted 0x05 0 0 0 0 []).csr with ie := true } };
      ∃ t, step s = .next t ∧ s.irq = false ∧ t.irq = true ∧ s.inputs = []) ∧
    (let s := { State.reset with csr := { Csr.reset with done := true }, inputs := [.host (.write .w32 0x04 1)] };
      ∃ t, step s = .next t ∧ s.irq = false ∧ t.irq = true) := ⟨⟨_, rfl, rfl, rfl, rfl⟩, ⟨_, rfl, rfl, rfl⟩⟩
theorem witness_EngineWritesOnlyItsCapacitySpan :
    let s := accepted 0x03 0 2 0x100 2 [];
    ∃ t, s.Inv ∧ s.phase ≠ .idle ∧ decode s.hw s.latch.opWord = .ok .h2n ∧ exec .h2n s = .next t :=
  ⟨_, inv_of_accepted rfl rfl ⟨rfl, rfl⟩ rfl rfl (by decide), by decide, rfl, rfl⟩
theorem witness_EveryCommandKeepsTheTurnFrame : ∃ t, exec .cencA (accepted 0x11 0 2 0x100 1 []) = .next t := ⟨_, rfl⟩
theorem witness_StepKeepsMemoryCanonical :
    ∃ t, (accepted 0x03 0 2 0x100 2 [(0, [1, 2])]).MemoryCanonical ∧ step (accepted 0x03 0 2 0x100 2 [(0, [1, 2])]) = .next t :=
  ⟨_, rfl, rfl⟩
theorem witness_StepKeepsTheInvariant : ∃ t, (accepted 0x03 0 2 0x100 2 []).Inv ∧ step (accepted 0x03 0 2 0x100 2 []) = .next t :=
  ⟨_, inv_of_accepted rfl rfl ⟨rfl, rfl⟩ rfl rfl (by decide), rfl⟩

end Sys2Proof.Tests
end

section
/-! SUPPORT. The host's CSR accesses: where an aligned 32-bit access goes, what it answers, and what a CMD write does. -/

namespace Sys2Proof.Machine

/-! ### Aligned 32-bit accesses of the CSR window (20_memory.md R43, R44) -/

theorem hostTarget_csr (hw : Config) {off : Nat} (hlt : off < 0x10000) (hal : off % 4 = 0) :
    hostTarget hw .w32 off = .csr off := by
  simp [hostTarget, hlt, hal]

section
variable {s : State} {off : Nat} (hr : s.inReset = false) (hlt : off < 0x10000) (hal : off % 4 = 0)
include hr hlt hal

/-- A CSR read answers the register and has no side effect (R22). -/
theorem hostTurn_read_csr :
    hostTurn (.read .w32 off) s = { s with busReply := some (.data (s.readCsr off)) } := by
  simp [hostTurn, hr, hostTarget_csr s.hw hlt hal]

/-- A CSR write is the register's write, acknowledged. -/
theorem hostTurn_write_csr (v : Word) :
    hostTurn (.write .w32 off v) s = { s.writeCsr off v with busReply := some .written } := by
  simp [hostTurn, hr, hostTarget_csr s.hw hlt hal]

end

/-! ### CMD (10_state.md R23, R27) -/

@[simp] theorem State.readCsr_cmd (s : State) : s.readCsr 0x0C = s.csr.cmd := rfl
@[simp] theorem State.writeCsr_cmd (s : State) (w : Word) : s.writeCsr 0x0C w = s.writeCmd w := rfl

theorem State.writeCmd_of_idle {s : State} (h : s.csr.busy = false) (w : Word) : s.writeCmd w = s.accept w := by
  simp [State.writeCmd, h]

theorem State.writeCmd_of_busy {s : State} (h : s.csr.busy = true) (w : Word) : s.writeCmd w = s.reject := by
  simp [State.writeCmd, h]

/-- Settles O38: a CMD write is `State.writeCmd`, whose branch BUSY decides; a CMD read answers the register. -/
theorem cmdWriteIsAcceptedOrRefused : Obligations.CmdWriteIsAcceptedOrRefused := by
  intro s w hr
  have hwrite : hostTurn (.write .w32 0x0C w) s = { s.writeCmd w with busReply := some .written } := by
    simpa using hostTurn_write_csr hr (off := 0x0C) (by decide) (by decide) w
  have hread : hostTurn (.read .w32 0x0C) s = { s with busReply := some (.data s.csr.cmd) } := by
    simpa using hostTurn_read_csr hr (off := 0x0C) (by decide) (by decide)
  refine ⟨fun hidle => ?accepted, fun hbusy => ?refused, hread, rfl⟩
  case accepted => rw [hwrite, State.writeCmd_of_idle hidle]; rfl
  case refused => rw [hwrite, State.writeCmd_of_busy hbusy]; rfl

end Sys2Proof.Machine
end

section
/-! SUPPORT. The frame count of an RTP word (43_rtp_rewriter.md R83): how the decoder reads it, its bound, and the first turn
of a command whose count is not positive. -/

namespace Sys2Proof.Machine

/-! ### The count in the word (30_encoding.md R53, R56) -/

/-- A signed 16-bit field bounds the count; the default 2 is below it. -/
theorem frameCount_le (fcdef : Bool) (fcnt : BitVec 16) : frameCount fcdef fcnt ≤ 32767 := by
  cases fcdef
  case true => simp [frameCount]
  case false =>
    have hlt : fcnt.toInt < 2 ^ 15 := BitVec.toInt_lt
    simp only [frameCount, Bool.false_eq_true, if_false]
    omega

/-- A guarded answer of the decoder is the command it guards. -/
theorem eq_of_guard_eq_ok {c : Prop} [Decidable c] {e : Illegal} {i j : Instr}
    (h : (if c then Except.error e else Except.ok j) = Except.ok i) : i = j := by
  split at h <;> cases h
  rfl

/-- A decoded word is a buffer command, or an RTP command whose count is read from FCDEF and FCNT of the word. -/
theorem rtpCommand_of_decode {hw : Config} {w : Word} {i : Instr} (h : decode hw w = .ok i) :
    rtpCommand i = none ∨ ∃ d law, rtpCommand i = some (d, law, frameCount (fcdefBit w) (fcntField w)) := by
  unfold decode at h
  split at h
  · cases h
  split at h
  case h_1 => rw [eq_of_guard_eq_ok h]; left; split <;> rfl  -- CENC
  case h_2 => rw [eq_of_guard_eq_ok h]; left; split <;> rfl  -- CDEC
  case h_3 => rw [eq_of_guard_eq_ok h]; exact .inl rfl  -- H2N
  case h_4 => rw [eq_of_guard_eq_ok h]; exact .inl rfl  -- N2H
  case h_5 => rw [eq_of_guard_eq_ok h]; exact .inl rfl  -- MIX
  case h_6 => rw [eq_of_guard_eq_ok h]; right; split <;> exact ⟨_, _, rfl⟩  -- RTPD
  case h_7 => rw [eq_of_guard_eq_ok h]; right; split <;> exact ⟨_, _, rfl⟩  -- RTPE
  case h_8 => cases h

/-- The count an RTP command carries is that of its word. -/
theorem frameCount_of_decode {hw : Config} {w : Word} {i : Instr} {d : Dir} {law : Law} {fc : Int}
    (h : decode hw w = .ok i) (hi : rtpCommand i = some (d, law, fc)) : fc = frameCount (fcdefBit w) (fcntField w) := by
  rcases rtpCommand_of_decode h with hn | ⟨d', law', hs⟩
  · rw [hn] at hi; cases hi
  · rw [hs] at hi; cases hi; rfl

/-! ### A count that is not positive (43_rtp_rewriter.md R83) -/

/-- With no context held an error completion issues no request (44_codec_port.md R94). -/
theorem State.raiseError_codecLog_of_ctx_none {s : State} (h : s.ctx = none) (f : Failure) :
    (s.raiseError f).codecLog = s.codecLog := by
  simp [State.raiseError, State.releaseCtx_of_none h]

/-- The frame count is the first check of an RTP command (60_exceptions.md R105). -/
theorem rtpStart_of_nonpos {fc : Int} (h : fc ≤ 0) (d : Dir) (s : State) :
    rtpStart d fc s = s.raiseError ⟨.invalidFrameCount, BitVec.ofInt 32 fc, 0⟩ := by
  simp [rtpStart, rtpChecks, h]

theorem exec_rtp_of_nonpos {i : Instr} {d : Dir} {law : Law} {fc : Int} {s : State}
    (hi : rtpCommand i = some (d, law, fc)) (hp : s.phase = .run .start) (h : fc ≤ 0) :
    exec i s = .next (s.raiseError ⟨.invalidFrameCount, BitVec.ofInt 32 fc, 0⟩) := by
  rw [exec_of_rtpCommand hi, rtpNext, hp]
  exact congrArg _ (rtpStart_of_nonpos h d s)

/-- Settles O5: the count is the decoder's reading of FCDEF and FCNT, and a count that is not positive fails the first check. -/
theorem frameCountOfRtpWord : Obligations.FrameCountOfRtpWord := by
  intro hw w i d law fc hdec hi
  have hfc : fc = frameCount (fcdefBit w) (fcntField w) := frameCount_of_decode hdec hi
  refine ⟨hfc, hfc ▸ frameCount_le _ _, fun s hp hc hle => ⟨_, exec_rtp_of_nonpos hi hp hle, ?csr, ?data, rfl,
    State.raiseError_buf s _, State.raiseError_codecLog_of_ctx_none hc _⟩⟩
  case csr => simp [Csr.completed, CompletionCode.value]
  case data =>
    rw [State.raiseError_csr, Csr.completed_errInfo0, BitVec.toNat_ofInt]
    omega

end Sys2Proof.Machine
end

section
/-! SUPPORT. Exceptions and the interrupt (60_exceptions.md): the two completion steps, the bus error of an access outside the
rules, and who can raise irq. -/

namespace Sys2Proof.Machine

/-! ### The engine's turn by phase -/

/-- Between commands the engine takes no step (70_reset_and_hazards.md R132). -/
theorem engineTurn_of_idle {s : State} (h : s.phase = .idle) : engineTurn s = .next s := by
  simp [engineTurn, h]

theorem engineTurn_of_run {s : State} {p : Position} (hr : s.inReset = false) (hp : s.phase = .run p) :
    engineTurn s = runTurn s := by
  simp [engineTurn, hr, hp]

theorem runTurn_of_illegal {s : State} {e : Illegal} (h : decode s.hw s.latch.opWord = .error e) :
    runTurn s = .next (settle s.illegal) := by
  simp [runTurn, h]

/-! ### The two completion steps (R102, R103, R107) -/

@[simp] theorem State.illegal_tainted (s : State) : s.illegal.tainted = s.tainted := State.raiseError_tainted s _

/-- With no context held an error completion is the completion step alone. -/
theorem State.raiseError_of_ctx_none {s : State} (h : s.ctx = none) (f : Failure) :
    s.raiseError f = { s with csr := s.csr.completed f.code 0 f.info0 f.info1, phase := .idle } := by
  simp [State.raiseError, State.releaseCtx_of_none h]

/-- A held context is released by the one request of an error completion (44_codec_port.md R94). -/
theorem State.raiseError_codecLog_of_ctx_some {s : State} {c : Context} (h : s.ctx = some c) (f : Failure) :
    (s.raiseError f).codecLog = s.codecLog ++ [.release c.handle] := by
  simp [State.raiseError, State.releaseCtx_of_some h]

theorem State.raiseError_turnFrame (s : State) (f : Failure) : TurnFrame s (s.raiseError f) := by
  simp [TurnFrame]

/-- Settles O35: the turn on an illegal word is `State.illegal`, an error completion that has nothing to release or settle. -/
theorem illegalWordCompletesWithIllegalCommand : Obligations.IllegalWordCompletesWithIllegalCommand := by
  intro s p e hr hp htaint hctx hdec
  have hsettle : settle s.illegal = s.illegal := settle_of_untainted (by rw [State.illegal_tainted, htaint])
  rw [engineTurn_of_run hr hp, runTurn_of_illegal hdec, hsettle, State.illegal, State.raiseError_of_ctx_none hctx]

/-- Settles O36: completion leaves the phase IDLE, where the engine takes no step. -/
theorem successfulCompletionStep : Obligations.SuccessfulCompletionStep := fun s len =>
  ⟨rfl, engineTurn_of_idle (State.complete_phase s len)⟩

/-- Settles O37, from the field laws of `State.raiseError`; the release is decided by the context slot. -/
theorem errorCompletionStep : Obligations.ErrorCompletionStep := by
  refine ⟨rfl, fun c i0 i1 => ⟨rfl, BitVec.toNat_ofNat i0 32, BitVec.toNat_ofNat i1 32⟩, fun s f => ?_⟩
  exact ⟨State.raiseError_csr s f, State.raiseError_phase s f, State.raiseError_ctx s f,
    fun hctx => State.raiseError_codecLog_of_ctx_none hctx f,
    fun c hctx => State.raiseError_codecLog_of_ctx_some hctx f,
    State.byte_raiseError s f, State.raiseError_buf s f, State.raiseError_port s f, State.raiseError_acc s f,
    State.raiseError_draws s f, State.raiseError_turnFrame s f⟩

/-! ### Host accesses outside the rules (20_memory.md R43, R44) -/

theorem hostTarget_busError_of_csrWindow {hw : Config} {w : Width} {off : Nat} (hlt : off < 0x10000)
    (hbad : w ≠ .w32 ∨ off % 4 ≠ 0) : hostTarget hw w off = .busError := by
  rw [hostTarget, if_pos hlt, if_neg (by tauto)]

theorem hostTarget_busError_of_bufWindow {hw : Config} {w : Width} {off : Nat} (hge : 0x10000 ≤ off)
    (hbad : off < hw.bufBase ∨ hw.bufBase + hw.memBytes < off + w.bytes ∨ off % w.bytes ≠ 0) :
    hostTarget hw w off = .busError := by
  rw [hostTarget, if_neg (by omega), if_neg (by omega)]

/-- An access that goes nowhere is answered with a bus error and changes nothing else (R115), in reset as out of it. -/
theorem hostTurn_of_busError {s : State} {w : Width} {off : Nat} (h : hostTarget s.hw w off = .busError) :
    hostTurn (.read w off) s = { s with busReply := some .busError } ∧
      ∀ v, hostTurn (.write w off v) s = { s with busReply := some .busError } := by
  simp [hostTurn, h]

/-- Settles O45: in either window and in the gap between them such an access has the bus error as its target. -/
theorem illegalHostAccessIsABusError : Obligations.IllegalHostAccessIsABusError := by
  rintro s w off (⟨hlt, hbad⟩ | ⟨hge, hbad⟩)
  · exact hostTurn_of_busError (hostTarget_busError_of_csrWindow hlt hbad)
  · exact hostTurn_of_busError (hostTarget_busError_of_bufWindow hge hbad)

/-! ### What an engine turn does to the CSRs -/

/-- The CSRs are as before, or the command has completed: the completion step is the engine's only CSR write (R102, R103). -/
def CsrKeptOrCompleted (s t : State) : Prop :=
  t.csr = s.csr ∨ t.phase = .idle ∧ ∃ code len i0 i1, t.csr = s.csr.completed code len i0 i1

/-- A later completion step overwrites everything an earlier one wrote. -/
@[simp] theorem Csr.completed_completed (c : Csr) (code code' : CompletionCode) (len i0 i1 len' i0' i1' : Word) :
    (c.completed code len i0 i1).completed code' len' i0' i1' = c.completed code' len' i0' i1' := rfl

theorem CsrKeptOrCompleted.of_raiseError (s : State) (f : Failure) : CsrKeptOrCompleted s (s.raiseError f) :=
  .inr ⟨rfl, _, _, _, _, State.raiseError_csr s f⟩

/-- A frame's turn either sends the next frame or releases the context and completes. -/
theorem rtpFrameDone_csrKeptOrCompleted (d : Dir) (law : Law) (fc : Int) (c : Context) (i off : Nat) (out : List Byte) (s : State) :
    CsrKeptOrCompleted s (rtpFrameDone d law fc c i off out s) := by
  unfold rtpFrameDone
  split
  · exact .inl rfl
  · exact .inr ⟨rfl, _, _, _, _, by rw [State.complete_csr, State.releaseCtx_csr]; rfl⟩

theorem rtpNext_csrKeptOrCompleted (d : Dir) (law : Law) (fc : Int) (s : State) : CsrKeptOrCompleted s (rtpNext d law fc s) := by
  rcases rtpNext_cases d law fc s with
    ⟨_, f, e⟩ | ⟨f, e⟩ | e | ⟨_, _, _, e⟩ | ⟨h, _, _, e⟩ | ⟨i, off, c, a, out, _, _, _, _, e⟩ <;> rw [e]
  · exact .of_raiseError s f  -- a check failed
  · exact .of_raiseError s.takeAnswer f  -- the codec answered FAIL
  · exact .inl rfl  -- the engine holds
  · exact .inl rfl  -- Acquire is issued
  · exact .inl rfl  -- frame 0 is sent
  · exact rtpFrameDone_csrKeptOrCompleted d law fc c i off out s

theorem exec_csrKeptOrCompleted {i : Instr} {s t : State} (h : exec i s = .next t) : CsrKeptOrCompleted s t := by
  rcases exec_cases h with ⟨_, ⟨f, rfl⟩ | ⟨out, need, acc, draws, _, _, rfl⟩⟩ | ⟨d, law, fc, _, rfl⟩
  · exact .of_raiseError s f
  · exact .inr ⟨rfl, _, _, _, _, rfl⟩
  · exact rtpNext_csrKeptOrCompleted d law fc s

/-- The unspecified result of an interfered command (20_memory.md R49) is a completion too. -/
theorem CsrKeptOrCompleted.settle {s t : State} (h : CsrKeptOrCompleted s t) : CsrKeptOrCompleted s (settle t) := by
  rcases settle_cases t with e | ⟨_, hidle, e⟩ <;> rw [e]
  · exact h
  · refine .inr ⟨hidle, ?_⟩
    rcases h with hcsr | ⟨_, code, len, i0, i1, hcsr⟩
    · exact ⟨_, _, _, _, by rw [← hcsr]; rfl⟩
    · exact ⟨_, _, _, _, by rw [scramble, State.writeBytes_csr, hcsr, Csr.completed_completed]⟩

/-- An engine turn does nothing, or runs a command and keeps the CSRs or completes it. -/
theorem engineTurn_csrKeptOrCompleted {s t : State} (h : engineTurn s = .next t) :
    t = s ∨ s.phase ≠ .idle ∧ CsrKeptOrCompleted s t := by
  rcases engineTurn_cases h with rfl | ⟨p, e, hp, _, _, rfl⟩ | ⟨p, i, u, hp, _, _, hu, rfl⟩
  · exact .inl rfl
  · exact .inr ⟨by simp [hp], (CsrKeptOrCompleted.of_raiseError s _).settle⟩
  · exact .inr ⟨by simp [hp], (exec_csrKeptOrCompleted hu).settle⟩

/-! ### What the other agents do to the CSRs -/

@[simp] theorem codecTurn_csr (ok : Bool) (s : State) : (codecTurn ok s).csr = s.csr := by
  unfold codecTurn
  split
  case h_1 => split <;> rfl  -- Acquire
  all_goals rfl

/-- Only an aligned 32-bit access reaches a CSR, the one at its own offset (R43, R44). -/
theorem eq_of_hostTarget_eq_csr {hw : Config} {w : Width} {off o : Nat} (h : hostTarget hw w off = .csr o) :
    w = .w32 ∧ o = off := by
  unfold hostTarget at h
  split at h
  · split at h
    next hw32 => cases h; exact ⟨hw32.1, rfl⟩
    next => cases h
  · split at h <;> cases h

/-- A host transaction changes the CSRs only as the write of a CSR. -/
theorem hostTurn_csr_cases (x : HostTxn) (s : State) :
    (hostTurn x s).csr = s.csr ∨
      ∃ off v, x = .write .w32 off v ∧ (hostTurn x s).csr = (s.writeCsr off v).csr := by
  unfold hostTurn
  split
  · exact .inl rfl  -- reset asserted
  cases x with
  | read w off => left; dsimp only; split <;> rfl
  | write w off v =>
    dsimp only
    split
    next o ho =>
      obtain ⟨rfl, rfl⟩ := eq_of_hostTarget_eq_csr ho
      exact .inr ⟨_, _, rfl, rfl⟩
    next => exact .inl rfl  -- BUF
    next => exact .inl rfl  -- bus error

/-! ### Who raises irq (R112, R113) -/

/-- irq is a level of the CSRs. -/
theorem State.irq_congr {s t : State} (h : t.csr = s.csr) : t.irq = s.irq := by
  simp [State.irq, h]

/-- The CSRs changed when irq rose. -/
theorem csr_ne_of_irq_rises {s t : State} (h0 : s.irq = false) (h1 : t.irq = true) : t.csr ≠ s.csr := fun h => by
  rw [State.irq_congr h, h0] at h1; cases h1

/-- No write of STATUS sets DONE (10_state.md R26). -/
theorem writeStatus_keeps_irq_low {s : State} (h : s.irq = false) (v : Word) :
    ({ s with csr := writeStatus v s.csr } : State).irq = false := by
  simp only [State.irq, writeStatus, ← Bool.and_assoc] at h ⊢
  rw [h, Bool.false_and]

/-- A CMD write clears DONE when it is accepted, and changes REJ only when it is refused (R27). -/
theorem writeCmd_keeps_irq_low {s : State} (h : s.irq = false) (w : Word) : (s.writeCmd w).irq = false := by
  rcases hb : s.csr.busy
  · rw [State.writeCmd_of_idle hb]; exact Bool.and_false _
  · rw [State.writeCmd_of_busy hb]; exact h

/-- Of all CSR writes only the one of CTRL with bit 0 set raises irq. -/
theorem writeCsr_of_irq_rises {s : State} {off : Nat} {v : Word} (h0 : s.irq = false)
    (h1 : (s.writeCsr off v).irq = true) : off = 0x04 ∧ v.getLsbD 0 = true := by
  unfold State.writeCsr at h1
  split at h1
  case h_1 => exact ⟨rfl, (Bool.and_eq_true_iff.mp h1).1⟩  -- CTRL
  case h_2 => rw [writeStatus_keeps_irq_low h0] at h1; cases h1
  case h_3 => rw [writeCmd_keeps_irq_low h0] at h1; cases h1
  all_goals exact absurd rfl (csr_ne_of_irq_rises (t := s) h0 h1)

theorem hostTurn_of_irq_rises {x : HostTxn} {s : State} (h0 : s.irq = false) (h1 : (hostTurn x s).irq = true) :
    ∃ v, x = .write .w32 0x04 v ∧ v.getLsbD 0 = true := by
  rcases hostTurn_csr_cases x s with hcsr | ⟨off, v, rfl, hcsr⟩
  · exact absurd hcsr (csr_ne_of_irq_rises h0 h1)
  · rw [State.irq_congr hcsr] at h1
    obtain ⟨rfl, hbit⟩ := writeCsr_of_irq_rises h0 h1
    exact ⟨v, rfl, hbit⟩

theorem engineTurn_of_irq_rises {s t : State} (h : engineTurn s = .next t) (h0 : s.irq = false) (h1 : t.irq = true) :
    s.phase ≠ .idle ∧ t.phase = .idle ∧ t.csr.done = true := by
  have hne : t.csr ≠ s.csr := csr_ne_of_irq_rises h0 h1
  rcases engineTurn_csrKeptOrCompleted h with rfl | ⟨hrun, hcsr | ⟨hidle, code, len, i0, i1, hcsr⟩⟩
  · exact absurd rfl hne
  · exact absurd hcsr hne
  · exact ⟨hrun, hidle, by rw [hcsr, Csr.completed_done]⟩

/-- A reset lowers irq, and without one asserted nothing happens (70_reset_and_hazards.md R121). -/
theorem resetDeassertTurn_keeps_irq_low {s : State} (h : s.irq = false) : (resetDeassertTurn s).irq = false := by
  unfold resetDeassertTurn
  split
  · rfl
  · exact h

/-- Settles O54, agent by agent: the CODEC and the PLATFORM raise no irq, the HOST by CTRL only, the ENGINE by a completion. -/
theorem irqRisesOnlyOnCompletionOrCtrlWrite : Obligations.IrqRisesOnlyOnCompletionOrCtrlWrite := by
  intro s t hstep h0 h1
  have hne : t.csr ≠ s.csr := csr_ne_of_irq_rises h0 h1
  rcases step_cases hstep with ⟨hi, hturn⟩ | ⟨e, rest, hi, hturn⟩
  · exact .inl ⟨.inl hi, engineTurn_of_irq_rises hturn h0 h1⟩
  cases e with
  | engine =>
    exact .inl ⟨.inr (by rw [hi]; rfl), engineTurn_of_irq_rises (s := { s with inputs := rest }) hturn h0 h1⟩
  | host x =>
    subst hturn
    obtain ⟨v, rfl, hbit⟩ := hostTurn_of_irq_rises (s := { s with inputs := rest }) h0 h1
    exact .inr ⟨v, by rw [hi]; rfl, hbit⟩
  | codec ok => exact absurd (by rw [hturn, codecTurn_csr]) hne
  | codecLate => exact absurd (by rw [hturn]; rfl) hne
  | resetAssert => exact absurd (by rw [hturn]; rfl) hne
  | resetDeassert =>
    rw [hturn, resetDeassertTurn_keeps_irq_low (s := { s with inputs := rest }) h0] at h1
    cases h1

end Sys2Proof.Machine
end

section
/-! SUPPORT. CTRL (10_state.md R25, 70_reset_and_hazards.md R131): the register's write and read, and irq after the write. -/

namespace Sys2Proof.Machine

/-- A CTRL write sets IE and looks at nothing else, BUSY included. -/
@[simp] theorem State.writeCsr_ctrl (s : State) (v : Word) :
    s.writeCsr 0x04 v = { s with csr := { s.csr with ie := v.getLsbD 0 } } := rfl

@[simp] theorem State.readCsr_ctrl (s : State) : s.readCsr 0x04 = ctrlWord s.csr := rfl

/-- CTRL reads as the number 1 or 0: IE is its bit 0 and the rest is zero. -/
theorem ctrlWord_eq_ite (c : Csr) : ctrlWord c = if c.ie then 1 else 0 := by
  rcases hie : c.ie <;> rw [ctrlWord, hie] <;> rfl

/-- irq after a CTRL write is the written IE against the DONE that stood (R112). -/
theorem State.irq_writeCsr_ctrl (s : State) (v : Word) : (s.writeCsr 0x04 v).irq = (v.getLsbD 0 && s.csr.done) := rfl

/-- Settles O43: the access is the CTRL register's own write or read, and irq is a level of the CSRs that the write leaves. -/
theorem ctrlWriteTakesEffectAtOnce : Obligations.CtrlWriteTakesEffectAtOnce := by
  intro s v hr
  have hwrite : hostTurn (.write .w32 0x04 v) s = { s.writeCsr 0x04 v with busReply := some .written } :=
    hostTurn_write_csr hr (by decide) (by decide) v
  have hread : hostTurn (.read .w32 0x04) s = { s with busReply := some (.data (s.readCsr 0x04)) } :=
    hostTurn_read_csr hr (by decide) (by decide)
  refine ⟨?write, ?irq, ?read⟩
  case write => rw [hwrite, State.writeCsr_ctrl]
  case irq =>
    have hcsr : (hostTurn (.write .w32 0x04 v) s).csr = (s.writeCsr 0x04 v).csr := by rw [hwrite]
    rw [State.irq_congr hcsr, State.irq_writeCsr_ctrl]
  case read => rw [hread, State.readCsr_ctrl, ctrlWord_eq_ite]

end Sys2Proof.Machine
end

section
/-! SUPPORT. The encoding (30_encoding.md): the bits of a packed word, the round trip both ways, and the rows of the opcode
map as masks of the word. -/

namespace Sys2Proof

/-! ### The bits of a packed word (R50) -/

theorem getLsbD_packWord (n : BitVec 16) (d l : Bool) (op : BitVec 4) (k : Nat) :
    (packWord n d l op).getLsbD k =
      if k < 4 then op.getLsbD k else if k = 4 then l else if k = 5 then d
      else if k < 16 then false else n.getLsbD (k - 16) := by
  simp only [packWord, BitVec.getLsbD_append]
  split_ifs <;> grind

section
variable (n : BitVec 16) (d l : Bool) (op : BitVec 4)

@[simp] theorem opField_packWord : opField (packWord n d l op) = op := by
  apply BitVec.eq_of_getLsbD_eq
  intro k hk
  simp [opField, getLsbD_packWord, hk]

@[simp] theorem lawBit_packWord : lawBit (packWord n d l op) = l := getLsbD_packWord n d l op 4

@[simp] theorem fcdefBit_packWord : fcdefBit (packWord n d l op) = d := getLsbD_packWord n d l op 5

@[simp] theorem fcntField_packWord : fcntField (packWord n d l op) = n := by
  apply BitVec.eq_of_getLsbD_eq
  intro k hk
  simp only [fcntField, BitVec.getLsbD_extractLsb', getLsbD_packWord, hk]
  grind

end

/-- A word whose reserved bits are zero is packed from its fields. -/
theorem packWord_fields {w : Word} (h : rsvField w = 0) : packWord (fcntField w) (fcdefBit w) (lawBit w) (opField w) = w := by
  have hrsv : ∀ k, 6 ≤ k → k < 16 → w.getLsbD k = false := by
    intro k h6 h16
    have := congrArg (fun v : BitVec 10 => v.getLsbD (k - 6)) h
    simpa [rsvField, show k - 6 < 10 by omega, show 6 + (k - 6) = k by omega] using this
  apply BitVec.eq_of_getLsbD_eq
  intro k hk
  rw [getLsbD_packWord]
  simp only [opField, lawBit, fcdefBit, fcntField, BitVec.getLsbD_extractLsb']
  split_ifs <;> grind

/-- CENC and CDEC leave FCDEF and FCNT zero (R55). -/
theorem fields_of_compandBits {w : Word} (h : w.extractLsb' 5 27 = 0) : fcntField w = 0 ∧ fcdefBit w = false := by
  have hbit : ∀ k < 27, w.getLsbD (5 + k) = false := by
    intro k hk
    simpa [hk] using congrArg (fun v : BitVec 27 => v.getLsbD k) h
  refine ⟨BitVec.eq_of_getLsbD_eq fun k hk => ?_, hbit 0 (by decide)⟩
  simpa [fcntField, hk, show 5 + (11 + k) = 16 + k by omega] using hbit (11 + k) (by omega)

/-- H2N, N2H and MIX leave LAW zero as well (R55). -/
theorem fields_of_plainBits {w : Word} (h : w.extractLsb' 4 28 = 0) :
    fcntField w = 0 ∧ fcdefBit w = false ∧ lawBit w = false := by
  have hbit : ∀ k < 28, w.getLsbD (4 + k) = false := by
    intro k hk
    simpa [hk] using congrArg (fun v : BitVec 28 => v.getLsbD k) h
  obtain ⟨hn, hd⟩ := fields_of_compandBits (w := w) (BitVec.eq_of_getLsbD_eq fun k hk => by
    simpa [hk, show 4 + (1 + k) = 5 + k by omega] using hbit (1 + k) (by omega))
  exact ⟨hn, hd, hbit 0 (by decide)⟩

/-! ### The round trip (R55, R56) -/

/-- RTPD and RTPE words: OP names the direction, LAW the law, and A-law needs the parameter (R54). -/
theorem decode_packWord_rtpd (hw : Config) (n : BitVec 16) (d l : Bool) (h : l = true → hw.alawRtp = true) :
    decode hw (packWord n d l 6) = .ok (if l then .rtpdA d n else .rtpdU d n) := by
  have hop : (6 : BitVec 4).toNat = 6 := rfl
  rw [decode, if_neg (by simp [Laws.ReservedBitsZero.rsvField_packWord]), opField_packWord, hop]
  cases l <;> simp_all

theorem decode_packWord_rtpe (hw : Config) (n : BitVec 16) (d l : Bool) (h : l = true → hw.alawRtp = true) :
    decode hw (packWord n d l 7) = .ok (if l then .rtpeA d n else .rtpeU d n) := by
  have hop : (7 : BitVec 4).toNat = 7 := rfl
  rw [decode, if_neg (by simp [Laws.ReservedBitsZero.rsvField_packWord]), opField_packWord, hop]
  cases l <;> simp_all

/-- Settles O2: a buffer command is one fixed word; an RTP word gives back the fields it was packed from. -/
theorem decodeOfEncodeIsIdentity : Obligations.DecodeOfEncodeIsIdentity := by
  intro hw i hwf
  cases i with
  | rtpdU d n => exact decode_packWord_rtpd hw n d false (by simp)
  | rtpdA d n => exact decode_packWord_rtpd hw n d true fun _ => hwf
  | rtpeU d n => exact decode_packWord_rtpe hw n d false (by simp)
  | rtpeA d n => exact decode_packWord_rtpe hw n d true fun _ => hwf
  | _ => rfl

/-- A guarded answer of the decoder: the guard passed, and the command is the one guarded. -/
theorem guard_eq_ok {c : Prop} [Decidable c] {e : Illegal} {i j : Instr}
    (h : (if c then Except.error e else Except.ok j) = Except.ok i) : ¬ c ∧ i = j := by
  split at h <;> cases h
  exact ⟨‹_›, rfl⟩

/-- Settles O3: the word is packed from its fields, and each row's guard fixes the fields its command does not carry. -/
theorem encodeOfDecodeIsIdentity : Obligations.EncodeOfDecodeIsIdentity := by
  intro hw w i h
  unfold decode at h
  split at h
  · cases h
  next hrsv =>
  have hpack : packWord (fcntField w) (fcdefBit w) (lawBit w) (opField w) = w := packWord_fields (by simpa using hrsv)
  have hop : ∀ {k : Nat}, (opField w).toNat = k → opField w = BitVec.ofNat 4 k := fun hk => by simp [← hk]
  split at h
  case h_1 hk | h_2 hk =>
    obtain ⟨hguard, rfl⟩ := guard_eq_ok h
    obtain ⟨hn, hd⟩ := fields_of_compandBits (by simpa using hguard)
    rw [hn, hd, hop hk] at hpack
    rw [← hpack]
    cases lawBit w <;> exact ⟨rfl, rfl⟩
  case h_3 hk | h_4 hk | h_5 hk =>
    obtain ⟨hguard, rfl⟩ := guard_eq_ok h
    obtain ⟨hn, hd, hl⟩ := fields_of_plainBits (by simpa using hguard)
    rw [hn, hd, hl, hop hk] at hpack
    exact ⟨hpack, rfl⟩
  case h_6 hk | h_7 hk =>
    obtain ⟨hguard, rfl⟩ := guard_eq_ok h
    rw [hop hk] at hpack
    cases hl : lawBit w <;> rw [hl] at hpack
    · exact ⟨hpack, rfl⟩
    · exact ⟨hpack, by simpa [hl, wellFormed] using hguard⟩
  case h_8 => cases h

/-! ### The rows of the opcode map (R55) -/

/-- The mask of an RTP row drops FCDEF and FCNT. -/
theorem getLsbD_rtpMask {k : Nat} (hk : k < 32) : (0x0000FFDF : Word).getLsbD k = (decide (k < 16) && decide (k ≠ 5)) := by
  revert k; decide

/-- The words of an RTP row are those that match it under the mask. -/
theorem exists_packWord_iff (l : Bool) (op : BitVec 4) (w : Word) :
    (∃ d n, packWord n d l op = w) ↔ w &&& 0x0000FFDF = packWord 0 false l op := by
  constructor
  · rintro ⟨d, n, rfl⟩
    apply BitVec.eq_of_getLsbD_eq
    intro k hk
    rw [BitVec.getLsbD_and, getLsbD_rtpMask hk, getLsbD_packWord, getLsbD_packWord]
    rcases Nat.lt_trichotomy k 4 with h4 | rfl | h4
    · simp [h4, show k < 16 by omega, show k ≠ 5 by omega]
    · simp
    · split_ifs <;> grind
  · intro h
    have hbit : ∀ k < 16, k ≠ 5 → w.getLsbD k = (packWord 0 false l op).getLsbD k := by
      intro k hk h5
      rw [← h, BitVec.getLsbD_and, getLsbD_rtpMask (by omega)]
      simp [hk, h5]
    refine ⟨fcdefBit w, fcntField w, BitVec.eq_of_getLsbD_eq fun k hk => ?_⟩
    by_cases hfree : k < 16 ∧ k ≠ 5
    · rw [hbit k hfree.1 hfree.2, getLsbD_packWord, getLsbD_packWord]
      split_ifs <;> grind
    · rw [getLsbD_packWord]
      simp only [fcdefBit, fcntField, BitVec.getLsbD_extractLsb']
      split_ifs <;> grind

/-- Settles O4: a legal word is the encoding of its command (O3), and each row's word decodes. -/
theorem legalWordsAreTheTableRows : Obligations.LegalWordsAreTheTableRows := by
  intro hw w
  have rtp6 := exists_packWord_iff (op := 6) (w := w)
  have rtp7 := exists_packWord_iff (op := 7) (w := w)
  constructor
  · rintro ⟨i, hi⟩
    obtain ⟨henc, hwf⟩ := encodeOfDecodeIsIdentity hw w i hi
    cases i with
    | rtpdU d n => have := (rtp6 false).mp ⟨d, n, henc⟩; tauto
    | rtpdA d n => have := (rtp6 true).mp ⟨d, n, henc⟩; tauto
    | rtpeU d n => have := (rtp7 false).mp ⟨d, n, henc⟩; tauto
    | rtpeA d n => have := (rtp7 true).mp ⟨d, n, henc⟩; tauto
    | _ => have := henc.symm; tauto
  · rintro (rfl | rfl | rfl | rfl | rfl | rfl | rfl | h | h | ⟨ha, h | h⟩)
    · exact ⟨.cencU, rfl⟩
    · exact ⟨.cencA, rfl⟩
    · exact ⟨.cdecU, rfl⟩
    · exact ⟨.cdecA, rfl⟩
    · exact ⟨.h2n, rfl⟩
    · exact ⟨.n2h, rfl⟩
    · exact ⟨.mix, rfl⟩
    · obtain ⟨d, n, rfl⟩ := (rtp6 false).mpr h
      exact ⟨_, decode_packWord_rtpd hw n d false (by simp)⟩
    · obtain ⟨d, n, rfl⟩ := (rtp7 false).mpr h
      exact ⟨_, decode_packWord_rtpe hw n d false (by simp)⟩
    · obtain ⟨d, n, rfl⟩ := (rtp6 true).mpr h
      exact ⟨_, decode_packWord_rtpd hw n d true fun _ => ha⟩
    · obtain ⟨d, n, rfl⟩ := (rtp7 true).mpr h
      exact ⟨_, decode_packWord_rtpe hw n d true fun _ => ha⟩

/-- Settles O1: each word runs through the decoder. -/
theorem decodeOfTableWords : Obligations.DecodeOfTableWords := by
  unfold Obligations.DecodeOfTableWords
  decide

end Sys2Proof
end

section
/-! SUPPORT. What every command's turn keeps (`TurnFrame`), and that every turn and step has a next state. -/

namespace Sys2Proof.Machine

/-! ### The frame of a turn -/

theorem TurnFrame.refl (s : State) : TurnFrame s s := by simp [TurnFrame]

/-- The fields of the frame that proofs ask for by name. -/
theorem TurnFrame.fields {s t : State} (h : TurnFrame s t) :
    t.hw = s.hw ∧ t.latch = s.latch ∧ t.inReset = s.inReset ∧ t.abandoned = s.abandoned ∧ t.tainted = s.tainted ∧
      t.epoch = s.epoch ∧ t.inputs = s.inputs := by
  obtain ⟨hhw, -, -, -, -, -, -, -, hlatch, hreset, -, -, habandoned, -, htainted, hepoch, hinputs⟩ := h
  exact ⟨hhw, hlatch, hreset, habandoned, htainted, hepoch, hinputs⟩

theorem TurnFrame.latch {s t : State} (h : TurnFrame s t) : t.latch = s.latch := by
  obtain ⟨-, hlatch, -⟩ := h.fields
  exact hlatch

theorem TurnFrame.tainted {s t : State} (h : TurnFrame s t) : t.tainted = s.tainted := by
  obtain ⟨-, -, -, -, htainted, -⟩ := h.fields
  exact htainted

theorem rtpAcquired_turnFrame (d : Dir) (law : Law) (h : Handle) (s : State) : TurnFrame s (rtpAcquired d law h s) := by
  simp [TurnFrame, rtpAcquired, rtpSend]

theorem rtpFrameDone_turnFrame (d : Dir) (law : Law) (fc : Int) (c : Context) (i off : Nat) (out : List Byte) (s : State) :
    TurnFrame s (rtpFrameDone d law fc c i off out s) := by
  unfold rtpFrameDone
  split <;> simp [TurnFrame, rtpSend]

theorem rtpNext_turnFrame (d : Dir) (law : Law) (fc : Int) (s : State) : TurnFrame s (rtpNext d law fc s) := by
  rcases rtpNext_cases d law fc s with
    ⟨_, f, e⟩ | ⟨f, e⟩ | e | ⟨_, _, _, e⟩ | ⟨h, _, _, e⟩ | ⟨i, off, c, a, out, _, _, _, _, e⟩ <;> rw [e]
  · exact State.raiseError_turnFrame s f
  · exact State.raiseError_turnFrame s.takeAnswer f
  · exact TurnFrame.refl s
  · exact TurnFrame.refl s
  · exact rtpAcquired_turnFrame d law h s
  · exact rtpFrameDone_turnFrame d law fc c i off out s

/-- Settles O57: an error, a buffer command's output and every RTP turn keep the frame. -/
theorem everyCommandKeepsTheTurnFrame : Obligations.EveryCommandKeepsTheTurnFrame := by
  intro s t i h
  rcases exec_cases h with ⟨_, ⟨f, rfl⟩ | ⟨out, need, acc, draws, _, _, rfl⟩⟩ | ⟨d, law, fc, _, rfl⟩
  · exact State.raiseError_turnFrame s f
  · simp [TurnFrame]
  · exact rtpNext_turnFrame d law fc s

/-! ### Every turn has a next state -/

theorem runBuffer_next (s : State) (checks : List (Option Failure)) (out : List Byte) (need : Nat) :
    ∃ t, runBuffer s checks out need = .next t := by
  unfold runBuffer
  split <;> exact ⟨_, rfl⟩

theorem execMix_next (s : State) : ∃ t, execMix s = .next t := by
  unfold execMix
  split <;> exact ⟨_, rfl⟩

theorem exec_next (i : Instr) (s : State) : ∃ t, exec i s = .next t := by
  cases i with
  | cencU | cencA | cdecU | cdecA | h2n | n2h => exact runBuffer_next ..
  | mix => exact execMix_next s
  | rtpdU d n | rtpdA d n | rtpeU d n | rtpeA d n => exact ⟨_, rtpTurn_eq ..⟩

theorem runTurn_of_legal {s u : State} {i : Instr} (hdec : decode s.hw s.latch.opWord = .ok i) (h : exec i s = .next u) :
    runTurn s = .next (settle u) := by
  simp [runTurn, hdec, h, settleResult]

theorem engineTurn_next (s : State) : ∃ t, engineTurn s = .next t := by
  unfold engineTurn
  split
  · exact ⟨s, rfl⟩
  split
  · exact ⟨s, rfl⟩
  · rcases hdec : decode s.hw s.latch.opWord with e | i
    · exact ⟨_, runTurn_of_illegal hdec⟩
    · obtain ⟨u, hu⟩ := exec_next i s
      exact ⟨_, runTurn_of_legal hdec hu⟩

/-- Settles O55: the ENGINE's turn has a next state, and every other agent's move is one. -/
theorem everyStepHasANextState : Obligations.EveryStepHasANextState := by
  intro s
  unfold step
  split
  case h_1 => exact engineTurn_next s
  case h_2 => exact engineTurn_next _
  all_goals exact ⟨_, rfl⟩

/-! ### Which move a step is (log 2) -/

/-- A command the host has not interfered with: the engine's turn is the command's. -/
theorem engineTurn_of_legal {s : State} {p : Position} {i : Instr} (hr : s.inReset = false) (hp : s.phase = .run p)
    (htaint : s.tainted = false) (hdec : decode s.hw s.latch.opWord = .ok i) : engineTurn s = exec i s := by
  obtain ⟨u, hu⟩ := exec_next i s
  have hframe : TurnFrame s u := everyCommandKeepsTheTurnFrame s u i hu
  have hkept : u.tainted = false := hframe.tainted.trans htaint
  rw [engineTurn_of_run hr hp, runTurn_of_legal hdec hu, settle_of_untainted hkept, hu]

section
variable {s : State} {rest : List Event}

theorem step_nil (h : s.inputs = []) : step s = engineTurn s := by simp [step, h]
theorem step_engine (h : s.inputs = .engine :: rest) : step s = engineTurn { s with inputs := rest } := by simp [step, h]
theorem step_host {x : HostTxn} (h : s.inputs = .host x :: rest) : step s = .next (hostTurn x { s with inputs := rest }) := by
  simp [step, h]
theorem step_codec {ok : Bool} (h : s.inputs = .codec ok :: rest) :
    step s = .next (codecTurn ok { s with inputs := rest }) := by simp [step, h]
theorem step_codecLate (h : s.inputs = .codecLate :: rest) :
    step s = .next (codecLateTurn { s with inputs := rest }) := by simp [step, h]
theorem step_resetAssert (h : s.inputs = .resetAssert :: rest) :
    step s = .next (resetAssertTurn { s with inputs := rest }) := by simp [step, h]
theorem step_resetDeassert (h : s.inputs = .resetDeassert :: rest) :
    step s = .next (resetDeassertTurn { s with inputs := rest }) := by simp [step, h]

end

theorem resetDeassertTurn_of_inReset {s : State} (h : s.inReset = true) : resetDeassertTurn s = resetBlock s := by
  simp [resetDeassertTurn, h]

theorem resetDeassertTurn_of_not_inReset {s : State} (h : s.inReset = false) : resetDeassertTurn s = s := by
  simp [resetDeassertTurn, h]

/-- Settles O34: the input list names the move, and an engine turn without interference is the command's. -/
theorem stepRunsTheDecodedCommand : Obligations.StepRunsTheDecodedCommand := by
  intro s rest
  refine ⟨fun p i hr hp ht hdec => ⟨fun h => ?nil, fun h => ?engine⟩, fun _ h => step_host h, fun _ h => step_codec h,
    fun h => step_codecLate h, fun h => step_resetAssert h, fun h hr => ?deassert, fun h hr => ?deassertIdle⟩
  case nil => rw [step_nil h, engineTurn_of_legal hr hp ht hdec]
  case engine => exact (step_engine h).trans (engineTurn_of_legal (s := { s with inputs := rest }) hr hp ht hdec)
  case deassert => rw [step_resetDeassert h, resetDeassertTurn_of_inReset (s := { s with inputs := rest }) hr]
  case deassertIdle => rw [step_resetDeassert h, resetDeassertTurn_of_not_inReset (s := { s with inputs := rest }) hr]

end Sys2Proof.Machine
end

section
/-! SUPPORT. What one move can write into BUF, with its consequences: the canonical form (O58), the capacity span (O56). -/

namespace Sys2Proof.Machine

/-! ### BUF with a block written -/

/-- BUF of `t` is BUF of `s` with at most `n` bytes written from `a` on. -/
def BufWritten (s t : State) (a n : Nat) : Prop :=
  t.epoch = s.epoch ∧ ∃ bs : List Byte, bs.length ≤ n ∧ t.buf = Memory.putAll s.buf a bs

theorem BufWritten.of_kept {s t : State} (hb : t.buf = s.buf) (he : t.epoch = s.epoch) (a n : Nat) : BufWritten s t a n :=
  ⟨he, [], Nat.zero_le n, hb⟩

theorem BufWritten.memoryCanonical {s t : State} {a n : Nat} (h : BufWritten s t a n) (hs : s.MemoryCanonical) :
    t.MemoryCanonical := by
  obtain ⟨-, bs, -, hbuf⟩ := h
  rw [State.MemoryCanonical, hbuf]
  exact Memory.wf_putAll hs a bs

theorem BufWritten.memoryInBuf {s t : State} {a n : Nat} (h : BufWritten s t a n) (hhw : t.hw = s.hw) (hr : InRange s a n)
    (hs : s.MemoryInBuf) : t.MemoryInBuf := by
  obtain ⟨-, bs, hlen, hbuf⟩ := h
  intro c hc
  rw [hbuf] at hc
  rw [hhw]
  rcases Memory.mem_putAll hc with hin | hold
  · omega
  · exact hs c hold

theorem BufWritten.bytesKeptOutside {s t : State} {a n : Nat} (h : BufWritten s t a n) : BytesKeptOutside s t a n := by
  obtain ⟨hep, bs, hlen, hbuf⟩ := h
  intro x hx
  calc t.byte x = (s.writeBytes a bs).byte x := State.byte_congr (s := s.writeBytes a bs) hbuf hep x
    _ = s.byte x := State.byte_writeBytes_outside s (by omega)

/-! ### What a command writes -/

theorem rtpAcquired_bufWritten (d : Dir) (law : Law) (h : Handle) (s : State) :
    BufWritten s (rtpAcquired d law h s) s.dstStart rtpHdr :=
  ⟨rfl, _, Nat.le_of_eq (State.length_rtpHeader _ _), rfl⟩

theorem rtpFrameDone_bufWritten (d : Dir) (law : Law) (fc : Int) (c : Context) (i off : Nat) (out : List Byte) (s : State) :
    BufWritten s (rtpFrameDone d law fc c i off out s) (s.dstStart + off) out.length := by
  unfold rtpFrameDone
  split
  · exact ⟨rfl, out, Nat.le_refl _, rfl⟩
  · exact ⟨by simp, out, Nat.le_refl _, by simp [State.writeBytes]⟩

/-- An RTP turn writes the header on Acquire's answer, one output frame on a frame's, and nothing otherwise. -/
theorem rtpNext_bufWritten (d : Dir) (law : Law) (fc : Int) (s : State) :
    BufWritten s (rtpNext d law fc s) s.dstStart 0 ∨
    (s.phase = .run .acquiring ∧ BufWritten s (rtpNext d law fc s) s.dstStart rtpHdr) ∨
    ∃ i off n, s.phase = .run (.frame i off) ∧ n ≤ rtpOutFrame d ∧
      BufWritten s (rtpNext d law fc s) (s.dstStart + off) n := by
  rcases rtpNext_cases d law fc s with
    ⟨_, f, e⟩ | ⟨f, e⟩ | e | ⟨_, _, _, e⟩ | ⟨h, hp, _, e⟩ | ⟨i, off, c, a, out, hp, _, _, ho, e⟩ <;> rw [e]
  · exact .inl (.of_kept (by simp) (by simp) _ _)
  · exact .inl (.of_kept (by simp) (by simp) _ _)
  · exact .inl (.of_kept rfl rfl _ _)
  · exact .inl (.of_kept rfl rfl _ _)
  · exact .inr (.inl ⟨hp, rtpAcquired_bufWritten d law h s⟩)
  · exact .inr (.inr ⟨i, off, out.length, hp, length_rtpFrameOutput ho, rtpFrameDone_bufWritten ..⟩)

/-- Every command's turn writes a block of a destination that fits, or is an RTP turn past the checks. -/
theorem exec_bufWritten {i : Instr} {s t : State} (h : exec i s = .next t) :
    (∃ need, DstFits s need ∧ BufWritten s t s.dstStart need) ∨ ∃ d law fc, rtpCommand i = some (d, law, fc) ∧
      ((s.phase = .run .acquiring ∧ BufWritten s t s.dstStart rtpHdr) ∨
        ∃ j off n, s.phase = .run (.frame j off) ∧ n ≤ rtpOutFrame d ∧ BufWritten s t (s.dstStart + off) n) := by
  have hzero : DstFits s 0 := ⟨Nat.zero_le _, .inl rfl⟩
  rcases exec_cases h with ⟨_, ⟨f, rfl⟩ | ⟨out, need, acc, draws, hlen, hfits, rfl⟩⟩ | ⟨d, law, fc, hi, rfl⟩
  · exact .inl ⟨0, hzero, .of_kept (by simp) (by simp) _ _⟩
  · exact .inl ⟨need, hfits, rfl, out, Nat.le_of_eq hlen, rfl⟩
  · rcases rtpNext_bufWritten d law fc s with hw | hrest
    · exact .inl ⟨0, hzero, hw⟩
    · exact .inr ⟨d, law, fc, hi, hrest⟩

/-! ### The canonical form (log 5) -/

theorem exec_memoryCanonical {i : Instr} {s t : State} (h : exec i s = .next t) (hs : s.MemoryCanonical) :
    t.MemoryCanonical := by
  rcases exec_bufWritten h with ⟨_, _, hw⟩ | ⟨_, _, _, _, ⟨_, hw⟩ | ⟨_, _, _, _, _, hw⟩⟩ <;> exact hw.memoryCanonical hs

theorem scramble_bufWritten (s : State) : BufWritten s (scramble s) s.dstStart (freeSpan s).length :=
  ⟨rfl, freeSpan s, Nat.le_refl _, rfl⟩

theorem settle_memoryCanonical {s : State} (hs : s.MemoryCanonical) : (settle s).MemoryCanonical := by
  rcases settle_cases s with e | ⟨_, _, e⟩ <;> rw [e]
  · exact hs
  · exact (scramble_bufWritten s).memoryCanonical hs

theorem State.illegal_bufWritten (s : State) (a n : Nat) : BufWritten s s.illegal a n :=
  .of_kept (State.raiseError_buf ..) (State.raiseError_epoch ..) a n

theorem engineTurn_memoryCanonical {s t : State} (h : engineTurn s = .next t) (hs : s.MemoryCanonical) :
    t.MemoryCanonical := by
  rcases engineTurn_cases h with rfl | ⟨_, _, _, _, _, rfl⟩ | ⟨_, _, u, _, _, _, hu, rfl⟩
  · exact hs
  · exact settle_memoryCanonical ((s.illegal_bufWritten 0 0).memoryCanonical hs)
  · exact settle_memoryCanonical (exec_memoryCanonical hu hs)

@[simp] theorem codecTurn_buf (ok : Bool) (s : State) : (codecTurn ok s).buf = s.buf := by
  unfold codecTurn
  split
  case h_1 => split <;> rfl
  all_goals rfl

@[simp] theorem State.writeCsr_buf (s : State) (off : Nat) (v : Word) : (s.writeCsr off v).buf = s.buf := by
  unfold State.writeCsr
  split
  case h_3 => unfold State.writeCmd; split <;> rfl
  all_goals rfl

/-- A host transaction leaves BUF as it is, or is a legal BUF write. -/
theorem hostTurn_buf_cases (x : HostTxn) (s : State) :
    (hostTurn x s).buf = s.buf ∨ ∃ w off v a, x = .write w off v ∧ s.inReset = false ∧ hostTarget s.hw w off = .buf a ∧
      hostTurn x s = { s.hostWrite w a v with busReply := some .written } := by
  unfold hostTurn
  split
  · exact .inl rfl
  next hr =>
  cases x with
  | read w off => left; dsimp only; split <;> rfl
  | write w off v =>
    dsimp only
    split
    next o ho => exact .inl (State.writeCsr_buf s o v)
    next a ha => exact .inr ⟨w, off, v, a, rfl, by simpa using hr, ha, rfl⟩
    next => exact .inl rfl

theorem hostTurn_memoryCanonical {x : HostTxn} {s : State} (hs : s.MemoryCanonical) : (hostTurn x s).MemoryCanonical := by
  rcases hostTurn_buf_cases x s with hb | ⟨w, off, v, a, _, _, _, e⟩
  · rw [State.MemoryCanonical, hb]; exact hs
  · rw [e]; exact Memory.wf_putAll hs a (hostBytes w v)

/-- A reset leaves no byte written (70_reset_and_hazards.md R122). -/
theorem resetDeassertTurn_memoryCanonical {s : State} (hs : s.MemoryCanonical) : (resetDeassertTurn s).MemoryCanonical := by
  unfold resetDeassertTurn
  split
  · rfl
  · exact hs

/-- Settles O58, agent by agent: the ENGINE and the HOST write blocks of bytes, a reset empties the list. -/
theorem stepKeepsMemoryCanonical : Obligations.StepKeepsMemoryCanonical := by
  intro s t hs hstep
  rcases step_cases hstep with ⟨_, hturn⟩ | ⟨e, rest, _, hturn⟩
  · exact engineTurn_memoryCanonical hturn hs
  have hs' : ({ s with inputs := rest } : State).MemoryCanonical := hs
  cases e with
  | engine => exact engineTurn_memoryCanonical hturn hs'
  | host x => rw [hturn]; exact hostTurn_memoryCanonical hs'
  | codec ok => rw [hturn, State.MemoryCanonical, codecTurn_buf]; exact hs'
  | codecLate => rw [hturn]; exact hs'
  | resetAssert => rw [hturn]; exact hs'
  | resetDeassert => rw [hturn]; exact resetDeassertTurn_memoryCanonical hs'

/-! ### The capacity span (20_memory.md R45, R49) -/

/-- BUF of `t` is BUF of `s` with a block written that lies in a destination which fits. -/
def WrittenInSpan (s t : State) : Prop :=
  ∃ off n need, DstFits s need ∧ off + n ≤ need ∧ BufWritten s t (s.dstStart + off) n

theorem WrittenInSpan.bytesKeptOutside {s t : State} (h : WrittenInSpan s t) :
    BytesKeptOutside s t s.dstStart s.dstCapacity := by
  obtain ⟨off, n, need, ⟨hcap, -⟩, hle, hw⟩ := h
  exact fun x hx => hw.bytesKeptOutside x (by omega)

theorem WrittenInSpan.memoryInBuf {s t : State} (h : WrittenInSpan s t) (hhw : t.hw = s.hw) (hs : s.MemoryInBuf) :
    t.MemoryInBuf := by
  obtain ⟨off, n, need, ⟨-, hr⟩, hle, hw⟩ := h
  exact hw.memoryInBuf hhw (by simp only [InRange] at hr ⊢; omega) hs

section
variable {s : State}

theorem State.sequenced_idle_iff (h : s.phase = .idle) : s.Sequenced ↔ s.ctx = none ∧ s.port = .quiet := by
  simp [State.Sequenced, h]

theorem State.sequenced_start_iff (h : s.phase = .run .start) : s.Sequenced ↔ s.ctx = none ∧ s.port = .quiet := by
  simp [State.Sequenced, h]

theorem State.sequenced_acquiring_iff (h : s.phase = .run .acquiring) : s.Sequenced ↔
    s.ctx = none ∧ ∃ d law fc, s.runningRtp = some (d, law, fc) ∧ 0 < fc ∧ DstFits s (rtpNeed d fc) ∧
      portAtAcquire d s.port := by
  simp [State.Sequenced, h]

theorem State.sequenced_frame_iff {i off : Nat} (h : s.phase = .run (.frame i off)) : s.Sequenced ↔
    ∃ d law fc h, s.runningRtp = some (d, law, fc) ∧ i < fc.toNat ∧ DstFits s (rtpNeed d fc) ∧ s.ctx = some ⟨d, h⟩ ∧
      off ≤ rtpHdr + rtpOutFrame d * i ∧ (d = .dec → off = rtpHdr + cmpFrame * i) ∧ portAtFrame d h s.port := by
  simp [State.Sequenced, h]

theorem State.runningRtp_of_decode {i : Instr} (h : decode s.hw s.latch.opWord = .ok i) : s.runningRtp = rtpCommand i := by
  simp [State.runningRtp, h]

end

/-- An output frame that is still to come fits behind those before it. -/
theorem rtpSlot_le_rtpNeed {d : Dir} {fc : Int} {i off n : Nat} (hi : i < fc.toNat)
    (hoff : off ≤ rtpHdr + rtpOutFrame d * i) (hn : n ≤ rtpOutFrame d) : off + n ≤ rtpNeed d fc := by
  have hmul : rtpOutFrame d * (i + 1) ≤ rtpOutFrame d * fc.toNat := Nat.mul_le_mul_left _ hi
  rw [Nat.mul_succ] at hmul
  rw [rtpNeed]
  omega

theorem exec_writtenInSpan {i : Instr} {s t : State} (hs : s.Sequenced) (hdec : decode s.hw s.latch.opWord = .ok i)
    (h : exec i s = .next t) : WrittenInSpan s t := by
  rcases exec_bufWritten h with ⟨need, hfits, hw⟩ | ⟨d, law, fc, hi, ⟨hp, hw⟩ | ⟨j, off, n, hp, hn, hw⟩⟩
  · exact ⟨0, need, need, hfits, by omega, hw⟩
  · obtain ⟨-, d', law', fc', -, -, hfits, -⟩ := (State.sequenced_acquiring_iff hp).mp hs
    exact ⟨0, rtpHdr, _, hfits, by rw [rtpNeed]; omega, hw⟩
  · obtain ⟨d', law', fc', h', hrun, hj, hfits, -, hoff, -, -⟩ := (State.sequenced_frame_iff hp).mp hs
    rw [State.runningRtp_of_decode hdec, hi] at hrun
    cases hrun
    exact ⟨off, n, _, hfits, rtpSlot_le_rtpNeed hj hoff hn, hw⟩

theorem exec_hw {i : Instr} {s t : State} (h : exec i s = .next t) : t.hw = s.hw :=
  (everyCommandKeepsTheTurnFrame s t i h).1

/-- Settles O56: past the checks the invariant says that the destination fits and where the output stands in it. -/
theorem engineWritesOnlyItsCapacitySpan : Obligations.EngineWritesOnlyItsCapacitySpan := by
  rintro s t i ⟨-, hbuf, -, hseq, -⟩ - hdec h
  have hspan := exec_writtenInSpan hseq hdec h
  exact ⟨hspan.bytesKeptOutside, hspan.memoryInBuf (exec_hw h) hbuf⟩

theorem length_freeSpan (s : State) : (freeSpan s).length = min s.dstCapacity (s.hw.memBytes - s.dstStart) := by
  simp [freeSpan]

/-- The free bytes after host interference stay in the span and in BUF. -/
theorem scramble_writtenInSpan (s : State) : WrittenInSpan s (scramble s) := by
  refine ⟨0, (freeSpan s).length, (freeSpan s).length, ?_, by omega, scramble_bufWritten s⟩
  rw [length_freeSpan]
  refine ⟨Nat.min_le_left _ _, ?_⟩
  simp only [InRange]
  omega

end Sys2Proof.Machine
end

section
/-! SUPPORT. The machine's invariant (O59): STATUS, the sequencer and the codec port (`State.ControlInv`) through every agent's
move, then the whole, and what it says of the turn that ends an interfered command (O49). -/

namespace Sys2Proof.Machine

/-- The part of the invariant that does not speak of BUF. -/
def State.ControlInv (s : State) : Prop := s.StatusAgrees ∧ s.Sequenced ∧ s.OneOutstanding

theorem State.inv_iff {s : State} : s.Inv ↔ s.MemoryCanonical ∧ s.MemoryInBuf ∧ s.ControlInv := Iff.rfl

theorem State.ControlInv.sequenced {s : State} (h : s.ControlInv) : s.Sequenced := h.2.1
theorem State.ControlInv.oneOutstanding {s : State} (h : s.ControlInv) : s.OneOutstanding := h.2.2
theorem State.Inv.control {s : State} (h : s.Inv) : s.ControlInv := h.2.2

/-! ### A state between commands -/

theorem isCompletionValue_value (code : CompletionCode) : isCompletionValue code.value = true := by
  cases code <;> decide

theorem State.StatusAgrees.of_completed {t : State} {c : Csr} {code : CompletionCode} {len i0 i1 : Word}
    (hcsr : t.csr = c.completed code len i0 i1) (hp : t.phase = .idle) : t.StatusAgrees := by
  simp [State.StatusAgrees, hcsr, hp, isCompletionValue_value]

theorem State.OneOutstanding.of_quiet {t : State} (hp : t.port = .quiet) (ha : t.abandoned ≤ 1) : t.OneOutstanding := by
  simp [State.OneOutstanding, hp, Port.outstanding, ha]

theorem State.OneOutstanding.abandoned_le {s : State} (h : s.OneOutstanding) : s.abandoned ≤ 1 := by
  have := h.1
  omega

/-- A completion that leaves no context and a quiet port meets the invariant again. -/
theorem State.ControlInv.of_completed {t : State} {c : Csr} {code : CompletionCode} {len i0 i1 : Word}
    (hcsr : t.csr = c.completed code len i0 i1) (hp : t.phase = .idle) (hctx : t.ctx = none) (hport : t.port = .quiet)
    (ha : t.abandoned ≤ 1) : t.ControlInv :=
  ⟨.of_completed hcsr hp, (State.sequenced_idle_iff hp).mpr ⟨hctx, hport⟩, .of_quiet hport ha⟩

theorem State.ControlInv.raiseError {s : State} (hport : s.port = .quiet) (ha : s.abandoned ≤ 1) (f : Failure) :
    (s.raiseError f).ControlInv :=
  .of_completed (State.raiseError_csr s f) rfl (by simp) (by simp [hport]) (by simpa using ha)

/-! ### The ENGINE -/

/-- While a command runs, STATUS is as acceptance left it, so a turn that keeps the CSRs and runs on keeps the agreement. -/
theorem State.StatusAgrees.of_run {s t : State} {p q : Position} (hs : s.StatusAgrees) (hp : s.phase = .run p)
    (hcsr : t.csr = s.csr) (hq : t.phase = .run q) : t.StatusAgrees := by
  simpa [State.StatusAgrees, hp, hq, hcsr] using hs

/-- A request just issued is the only one. -/
theorem State.OneOutstanding.of_waiting {t : State} {r : CodecRequest} (hp : t.port = .waiting r) (ha : t.abandoned = 0) :
    t.OneOutstanding := by
  simp [State.OneOutstanding, hp, Port.outstanding, ha]

theorem portAtFrame_rtpRequest (d : Dir) (law : Law) (h : Handle) (i : Nat) (s : State) :
    portAtFrame d h (.waiting (rtpRequest d law h i s)) := by
  cases d with
  | dec => exact ⟨_, rfl, State.length_rtpInput s .dec i⟩
  | enc => exact ⟨_, rfl, by simp [rtpInFrame, cmpFrame]⟩

/-- Acquire answered with a handle: frame 0 is out, the header written. -/
theorem rtpAcquired_controlInv {d : Dir} {law : Law} {fc : Int} {h : Handle} {s : State} (hs : s.ControlInv)
    (hp : s.phase = .run .acquiring) (hport : s.port = .answered (.handle h)) (hrun : s.runningRtp = some (d, law, fc)) :
    (rtpAcquired d law h s).ControlInv := by
  obtain ⟨hstat, hseq, hout⟩ := hs
  obtain ⟨-, d', law', fc', hrun', hpos, hfits, -⟩ := (State.sequenced_acquiring_iff hp).mp hseq
  rw [hrun] at hrun'
  cases hrun'
  refine ⟨hstat.of_run hp rfl (q := .frame 0 rtpHdr) rfl, ?_, .of_waiting rfl (hout.2 (by simp [hport]))⟩
  exact (State.sequenced_frame_iff rfl).mpr ⟨d, law, fc, h, hrun, by omega, hfits, rfl, by omega, fun _ => rfl,
    portAtFrame_rtpRequest ..⟩

/-- What a frame's answer writes in the decode direction is a whole companded frame (R84). -/
theorem length_rtpFrameOutput_dec {law : Law} {a : CodecAnswer} {out : List Byte}
    (h : rtpFrameOutput law .dec a = some out) : out.length = cmpFrame := by
  cases a <;> simp [rtpFrameOutput] at h
  subst h
  simp [cmpFrame]

/-- A frame answered: the next frame is out at the next offset, or the command has completed. -/
theorem rtpFrameDone_controlInv {d : Dir} {law : Law} {fc : Int} {c : Context} {a : CodecAnswer} {i off : Nat}
    {out : List Byte} {s : State} (hs : s.ControlInv) (hp : s.phase = .run (.frame i off)) (hctx : s.ctx = some c)
    (hport : s.port = .answered a) (hout : rtpFrameOutput law d a = some out) (hrun : s.runningRtp = some (d, law, fc)) :
    (rtpFrameDone d law fc c i off out s).ControlInv := by
  obtain ⟨hstat, hseq, hone⟩ := hs
  obtain ⟨d', law', fc', h, hrun', hi, hfits, hctx', hoff, hdec, -⟩ := (State.sequenced_frame_iff hp).mp hseq
  rw [hrun] at hrun'
  cases hrun'
  rw [hctx] at hctx'
  cases hctx'
  unfold rtpFrameDone
  split
  next hnext =>
    have hlen : out.length ≤ rtpOutFrame d := length_rtpFrameOutput hout
    refine ⟨hstat.of_run hp rfl (q := .frame (i + 1) (off + out.length)) rfl, ?_, .of_waiting rfl (hone.2 (by simp [hport]))⟩
    refine (State.sequenced_frame_iff rfl).mpr ⟨d, law, fc, h, hrun, hnext, hfits, hctx, ?_, fun hd => ?_,
      portAtFrame_rtpRequest ..⟩
    · rw [Nat.mul_succ]; omega
    · subst hd
      rw [length_rtpFrameOutput_dec hout, hdec rfl, Nat.mul_succ]; omega
  next => exact .of_completed (by rw [State.complete_csr]) rfl (by simp) (by simp) (by simpa using hone.abandoned_le)

theorem RtpReady.fc_pos {s : State} {d : Dir} {fc : Int} (h : RtpReady s d fc) : 0 < fc := h.1

theorem RtpReady.dstFits {s : State} {d : Dir} {fc : Int} (h : RtpReady s d fc) : DstFits s (rtpNeed d fc) := by
  obtain ⟨-, ⟨-, hfits, -⟩, -⟩ := h
  exact hfits

theorem rtpNext_controlInv {d : Dir} {law : Law} {fc : Int} {s : State} {p : Position} (hs : s.ControlInv)
    (hp : s.phase = .run p) (hrun : s.runningRtp = some (d, law, fc)) : (rtpNext d law fc s).ControlInv := by
  have hab : s.abandoned ≤ 1 := hs.oneOutstanding.abandoned_le
  have hstart : s.phase = .idle ∨ s.phase = .run .start → s.phase = .run .start ∧ s.ctx = none ∧ s.port = .quiet := by
    rintro (h | h)
    · rw [hp] at h; cases h
    · exact ⟨h, (State.sequenced_start_iff h).mp hs.sequenced⟩
  rcases rtpNext_cases d law fc s with
    ⟨h0, f, e⟩ | ⟨f, e⟩ | e | ⟨h0, hready, ha, e⟩ | ⟨h, hp, hport, e⟩ | ⟨i, off, c, a, out, hp, hctx, hport, ho, e⟩ <;> rw [e]
  · obtain ⟨-, -, hport⟩ := hstart h0
    exact .raiseError hport hab f
  · exact .raiseError (s := s.takeAnswer) rfl hab f
  · exact hs
  · obtain ⟨hp, hctx, -⟩ := hstart h0
    refine ⟨hs.1.of_run hp rfl (q := .acquiring) rfl, ?_, .of_waiting rfl ha⟩
    exact (State.sequenced_acquiring_iff rfl).mpr ⟨hctx, d, law, fc, hrun, hready.fc_pos, hready.dstFits, rfl⟩
  · exact rtpAcquired_controlInv hs hp hport hrun
  · exact rtpFrameDone_controlInv hs hp hctx hport ho hrun

/-- A command that is not RTP, and an illegal word, run at the start only. -/
theorem State.ControlInv.start_of_not_rtp {s : State} {p : Position} (hs : s.ControlInv) (hp : s.phase = .run p)
    (hrun : s.runningRtp = none) : s.ctx = none ∧ s.port = .quiet := by
  cases p with
  | start => exact (State.sequenced_start_iff hp).mp hs.sequenced
  | acquiring =>
    obtain ⟨-, _, _, _, h, -⟩ := (State.sequenced_acquiring_iff hp).mp hs.sequenced
    rw [hrun] at h; cases h
  | frame i off =>
    obtain ⟨_, _, _, _, h, -⟩ := (State.sequenced_frame_iff hp).mp hs.sequenced
    rw [hrun] at h; cases h

theorem exec_controlInv {i : Instr} {s t : State} {p : Position} (hs : s.ControlInv) (hp : s.phase = .run p)
    (hdec : decode s.hw s.latch.opWord = .ok i) (h : exec i s = .next t) : t.ControlInv := by
  have hrun : s.runningRtp = rtpCommand i := State.runningRtp_of_decode hdec
  have hab : s.abandoned ≤ 1 := hs.oneOutstanding.abandoned_le
  rcases exec_cases h with ⟨hi, ⟨f, rfl⟩ | ⟨out, need, acc, draws, _, _, rfl⟩⟩ | ⟨d, law, fc, hi, rfl⟩
  · exact .raiseError (hs.start_of_not_rtp hp (hrun.trans hi)).2 hab f
  · obtain ⟨hctx, hport⟩ := hs.start_of_not_rtp hp (hrun.trans hi)
    exact .of_completed rfl rfl hctx hport hab
  · exact rtpNext_controlInv hs hp (hrun.trans hi)

theorem exec_inv {i : Instr} {s t : State} {p : Position} (hs : s.Inv) (hp : s.phase = .run p)
    (hdec : decode s.hw s.latch.opWord = .ok i) (h : exec i s = .next t) : t.Inv := by
  obtain ⟨hcan, hbuf, hctl⟩ := State.inv_iff.mp hs
  have hspan : WrittenInSpan s t := exec_writtenInSpan hctl.sequenced hdec h
  exact State.inv_iff.mpr ⟨exec_memoryCanonical h hcan, hspan.memoryInBuf (exec_hw h) hbuf, exec_controlInv hctl hp hdec h⟩

theorem State.illegal_inv {s : State} {p : Position} {e : Illegal} (hs : s.Inv) (hp : s.phase = .run p)
    (hdec : decode s.hw s.latch.opWord = .error e) : s.illegal.Inv := by
  obtain ⟨hcan, hbuf, hctl⟩ := State.inv_iff.mp hs
  have hkept : BufWritten s s.illegal 0 0 := s.illegal_bufWritten 0 0
  refine State.inv_iff.mpr ⟨hkept.memoryCanonical hcan, hkept.memoryInBuf (State.raiseError_hw ..) (.inl rfl) hbuf, ?_⟩
  exact .raiseError (hctl.start_of_not_rtp hp (by simp [State.runningRtp, hdec])).2 hctl.oneOutstanding.abandoned_le _

theorem scramble_inv {s : State} (hs : s.Inv) (hp : s.phase = .idle) : (scramble s).Inv := by
  obtain ⟨hcan, hbuf, hctl⟩ := State.inv_iff.mp hs
  obtain ⟨hctx, hport⟩ := (State.sequenced_idle_iff hp).mp hctl.sequenced
  exact State.inv_iff.mpr ⟨(scramble_bufWritten s).memoryCanonical hcan, (scramble_writtenInSpan s).memoryInBuf rfl hbuf,
    .of_completed rfl hp hctx hport hctl.oneOutstanding.abandoned_le⟩

theorem settle_inv {s : State} (hs : s.Inv) : (settle s).Inv := by
  rcases settle_cases s with e | ⟨_, hp, e⟩ <;> rw [e]
  · exact hs
  · exact scramble_inv hs hp

theorem engineTurn_inv {s t : State} (hs : s.Inv) (h : engineTurn s = .next t) : t.Inv := by
  rcases engineTurn_cases h with rfl | ⟨p, e, hp, _, hdec, rfl⟩ | ⟨p, i, u, hp, _, hdec, hu, rfl⟩
  · exact hs
  · exact settle_inv (State.illegal_inv hs hp hdec)
  · exact settle_inv (exec_inv hs hp hdec hu)

/-! ### The CODEC -/

/-- What the CODEC's answer keeps: everything but the port, the frame histories and the draw counter. -/
theorem codecTurn_frame (ok : Bool) (s : State) : (codecTurn ok s).hw = s.hw ∧ (codecTurn ok s).latch = s.latch ∧
    (codecTurn ok s).phase = s.phase ∧ (codecTurn ok s).ctx = s.ctx ∧ (codecTurn ok s).abandoned = s.abandoned := by
  unfold codecTurn
  split
  case h_1 => split <;> simp
  all_goals simp

theorem codecTurn_of_quiet {s : State} (h : s.port = .quiet) (ok : Bool) : codecTurn ok s = s := by
  simp [codecTurn, h]

theorem codecTurn_of_answered {s : State} {a : CodecAnswer} (h : s.port = .answered a) (ok : Bool) : codecTurn ok s = s := by
  simp [codecTurn, h]

/-- An answer is of its request's kind, or FAIL. -/
theorem portAtAcquire_codecTurn {d : Dir} {s : State} (h : portAtAcquire d s.port) (ok : Bool) :
    portAtAcquire d (codecTurn ok s).port := by
  cases hp : s.port with
  | quiet => rw [hp] at h; exact h.elim
  | answered a => rw [codecTurn_of_answered hp]; exact h
  | waiting r =>
    rw [hp] at h
    cases h
    cases ok <;> simp [codecTurn, hp, portAtAcquire]

theorem portAtFrame_codecTurn {d : Dir} {c : Handle} {s : State} (h : portAtFrame d c s.port) (ok : Bool) :
    portAtFrame d c (codecTurn ok s).port := by
  cases hp : s.port with
  | quiet => rw [hp] at h; exact h.elim
  | answered a => rw [codecTurn_of_answered hp]; exact h
  | waiting r =>
    rw [hp] at h
    cases d <;> obtain ⟨_, rfl, _⟩ := h <;> cases ok <;> simp [codecTurn, hp, portAtFrame]

/-- An answer leaves nothing outstanding, or nothing changed. -/
theorem codecTurn_port_cases (ok : Bool) (s : State) : (codecTurn ok s).port = s.port ∨
    s.port ≠ .quiet ∧ (codecTurn ok s).port.outstanding = 0 := by
  unfold codecTurn
  split
  case h_1 hp => split <;> simp [hp, Port.outstanding]
  case h_2 hp | h_3 hp => simp [hp, Port.outstanding]
  all_goals exact .inl rfl

theorem codecTurn_oneOutstanding {s : State} (hs : s.OneOutstanding) (ok : Bool) : (codecTurn ok s).OneOutstanding := by
  obtain ⟨-, -, -, -, ha⟩ := codecTurn_frame ok s
  rcases codecTurn_port_cases ok s with hp | ⟨hne, hout⟩
  · rw [State.OneOutstanding, hp, ha]; exact hs
  · exact ⟨by rw [hout, ha, hs.2 hne]; decide, fun _ => by rw [ha, hs.2 hne]⟩

theorem codecTurn_sequenced {s : State} (hs : s.Sequenced) (ok : Bool) : (codecTurn ok s).Sequenced := by
  obtain ⟨hhw, hlatch, hphase, hctx, -⟩ := codecTurn_frame ok s
  have hrun : (codecTurn ok s).runningRtp = s.runningRtp := by simp only [State.runningRtp, hhw, hlatch]
  have hfits : ∀ {need}, DstFits s need → DstFits (codecTurn ok s) need := fun h => by
    simpa only [DstFits, InRange, State.dstCapacity, State.dstStart, hhw, hlatch] using h
  cases hp : s.phase with
  | idle =>
    rw [codecTurn_of_quiet ((State.sequenced_idle_iff hp).mp hs).2]; exact hs
  | run p =>
    cases p with
    | start => rw [codecTurn_of_quiet ((State.sequenced_start_iff hp).mp hs).2]; exact hs
    | acquiring =>
      obtain ⟨hc, d, law, fc, hr, hpos, hf, hport⟩ := (State.sequenced_acquiring_iff hp).mp hs
      exact (State.sequenced_acquiring_iff (hphase.trans hp)).mpr
        ⟨hctx.trans hc, d, law, fc, hrun.trans hr, hpos, hfits hf, portAtAcquire_codecTurn hport ok⟩
    | frame i off =>
      obtain ⟨d, law, fc, h, hr, hi, hf, hc, hoff, hdec, hport⟩ := (State.sequenced_frame_iff hp).mp hs
      exact (State.sequenced_frame_iff (hphase.trans hp)).mpr
        ⟨d, law, fc, h, hrun.trans hr, hi, hfits hf, hctx.trans hc, hoff, hdec, portAtFrame_codecTurn hport ok⟩

theorem codecTurn_inv {s : State} (hs : s.Inv) (ok : Bool) : (codecTurn ok s).Inv := by
  obtain ⟨hcan, hbuf, hstat, hseq, hone⟩ := hs
  obtain ⟨hhw, -, hphase, -, -⟩ := codecTurn_frame ok s
  refine ⟨by rwa [State.MemoryCanonical, codecTurn_buf], by rwa [State.MemoryInBuf, codecTurn_buf, hhw], ?_,
    codecTurn_sequenced hseq ok, codecTurn_oneOutstanding hone ok⟩
  rw [State.StatusAgrees, codecTurn_csr, hphase]
  exact hstat

theorem codecLateTurn_inv {s : State} (hs : s.Inv) : (codecLateTurn s).Inv := by
  obtain ⟨hcan, hbuf, hstat, hseq, hone, hquiet⟩ := hs
  refine ⟨hcan, hbuf, hstat, hseq, ?_, fun h => ?_⟩
  · show s.abandoned - 1 + s.port.outstanding ≤ 1
    omega
  · show s.abandoned - 1 = 0
    rw [hquiet h]

/-! ### The HOST -/

@[simp] theorem length_hostBytes (w : Width) (v : Word) : (hostBytes w v).length = w.bytes := by
  cases w <;> rfl

/-- The BUF window of the host's map (20_memory.md R43, R44). -/
theorem hostTarget_eq_buf_iff {hw : Config} {w : Width} {off a : Nat} : hostTarget hw w off = .buf a ↔
    0x10000 ≤ off ∧ hw.bufBase ≤ off ∧ off + w.bytes ≤ hw.bufBase + hw.memBytes ∧ off % w.bytes = 0 ∧
      a = off - hw.bufBase := by
  unfold hostTarget
  split_ifs <;> simp <;> omega

theorem hostWrite_bufWritten (s : State) (w : Width) (a : Nat) (v : Word) : BufWritten s (s.hostWrite w a v) a w.bytes :=
  ⟨rfl, hostBytes w v, Nat.le_of_eq (length_hostBytes w v), rfl⟩

theorem hostWrite_inv {s : State} {w : Width} {a : Nat} (hs : s.Inv) (ha : a + w.bytes ≤ s.hw.memBytes) (v : Word) :
    (s.hostWrite w a v).Inv := by
  obtain ⟨hcan, hbuf, hctl⟩ := State.inv_iff.mp hs
  have hw : BufWritten s (s.hostWrite w a v) a w.bytes := hostWrite_bufWritten s w a v
  exact State.inv_iff.mpr ⟨hw.memoryCanonical hcan, hw.memoryInBuf rfl (.inr ha) hbuf, hctl⟩

theorem State.accept_inv {s : State} (hs : s.Inv) (hb : s.csr.busy = false) (w : Word) : (s.accept w).Inv := by
  obtain ⟨hcan, hbuf, hstat, hseq, hone⟩ := hs
  have hidle : s.phase = .idle := by
    by_contra h
    rw [hstat.1.mpr h] at hb; cases hb
  refine ⟨hcan, hbuf, ⟨by simp [State.accept], by simp [State.accept], isCompletionValue_value .ok⟩,
    ?_, hone⟩
  exact (State.sequenced_start_iff rfl).mpr ((State.sequenced_idle_iff hidle).mp hseq)

theorem State.writeCmd_inv {s : State} (hs : s.Inv) (w : Word) : (s.writeCmd w).Inv := by
  cases hb : s.csr.busy
  · rw [State.writeCmd_of_idle hb]; exact State.accept_inv hs hb w
  · rw [State.writeCmd_of_busy hb]; exact hs

/-- Clearing DONE keeps the agreement: a running command shows DONE = 0. -/
theorem writeStatus_inv {s : State} (hs : s.Inv) (v : Word) : ({ s with csr := writeStatus v s.csr } : State).Inv := by
  obtain ⟨hcan, hbuf, ⟨hphase, hresult, hcode⟩, hseq, hone⟩ := hs
  refine ⟨hcan, hbuf, ⟨hphase, fun hb => ?_, hcode⟩, hseq, hone⟩
  obtain ⟨hdone, hrest⟩ := hresult hb
  exact ⟨by simp [writeStatus, hdone], hrest⟩

/-- Of the CSR writes only CMD and STATUS touch what the invariant speaks of. -/
theorem State.writeCsr_inv {s : State} (hs : s.Inv) (off : Nat) (v : Word) : (s.writeCsr off v).Inv := by
  unfold State.writeCsr
  split
  case h_2 => exact writeStatus_inv hs v
  case h_3 => exact State.writeCmd_inv hs v
  all_goals exact hs

theorem hostTurn_inv {s : State} (hs : s.Inv) (x : HostTxn) : (hostTurn x s).Inv := by
  unfold hostTurn
  split
  · exact hs
  cases x with
  | read w off => dsimp only; split <;> exact hs
  | write w off v =>
    dsimp only
    split
    next o _ => exact State.writeCsr_inv hs o v
    next a ha =>
      obtain ⟨-, hbase, htop, -, rfl⟩ := hostTarget_eq_buf_iff.mp ha
      exact hostWrite_inv hs (by omega) v
    next => exact hs

/-! ### The PLATFORM -/

theorem State.StatusAgrees.of_reset {t : State} (hcsr : t.csr = Csr.reset) (hp : t.phase = .idle) : t.StatusAgrees := by
  refine ⟨by simp [hcsr, hp, Csr.reset], by simp [hcsr, Csr.reset], ?_⟩
  rw [hcsr]
  exact isCompletionValue_value .ok

/-- After a reset the port is quiet and what was outstanding is abandoned (70_reset_and_hazards.md R121, R123). -/
theorem resetBlock_inv {s : State} (hone : s.OneOutstanding) : (resetBlock s).Inv := by
  exact ⟨rfl, by simp [State.MemoryInBuf, resetBlock, State.reset], .of_reset rfl rfl,
    (State.sequenced_idle_iff rfl).mpr ⟨rfl, rfl⟩, .of_quiet rfl hone.1⟩

theorem resetDeassertTurn_inv {s : State} (hs : s.Inv) : (resetDeassertTurn s).Inv := by
  unfold resetDeassertTurn
  split
  · exact resetBlock_inv hs.control.oneOutstanding
  · exact hs

/-! ### Every step -/

/-- Settles O59, agent by agent. -/
theorem stepKeepsTheInvariant : Obligations.StepKeepsTheInvariant := by
  intro s t hs hstep
  rcases step_cases hstep with ⟨_, hturn⟩ | ⟨e, rest, _, hturn⟩
  · exact engineTurn_inv hs hturn
  have hs' : ({ s with inputs := rest } : State).Inv := hs
  cases e with
  | engine => exact engineTurn_inv hs' hturn
  | host x => rw [hturn]; exact hostTurn_inv hs' x
  | codec ok => rw [hturn]; exact codecTurn_inv hs' ok
  | codecLate => rw [hturn]; exact codecLateTurn_inv hs'
  | resetAssert => rw [hturn]; exact hs'
  | resetDeassert => rw [hturn]; exact resetDeassertTurn_inv hs'

/-- Settles O60: the machine after reset is IDLE with an empty BUF, no context and a quiet port. -/
theorem resetMeetsTheInvariant : Obligations.ResetMeetsTheInvariant := by
  exact ⟨rfl, by simp [State.MemoryInBuf, State.reset], .of_reset rfl rfl, ⟨rfl, rfl⟩, .of_quiet rfl (Nat.zero_le 1)⟩

/-! ### The end of an interfered command (20_memory.md R49) -/

theorem settle_of_tainted_idle {s : State} (ht : s.tainted = true) (hp : s.phase = .idle) : settle s = scramble s := by
  simp [settle, ht, hp]

theorem settle_of_running {s : State} (hp : s.phase ≠ .idle) : settle s = s := by
  simp [settle, hp]

/-- The command's own turn and the drawing of its result both write inside the capacity span. -/
theorem scramble_after_turn {s u : State} (hspan : WrittenInSpan s u) (hlatch : u.latch = s.latch) :
    BytesKeptOutside s (scramble u) s.dstStart s.dstCapacity := by
  intro x hx
  have hspan' := (scramble_writtenInSpan u).bytesKeptOutside
  simp only [State.dstStart, State.dstCapacity, hlatch] at hspan'
  exact (hspan' x hx).trans (hspan.bytesKeptOutside x hx)

theorem settle_eq_scramble_of_idle {u : State} (ht : u.tainted = true) (h : (settle u).phase = .idle) :
    u.phase = .idle ∧ settle u = scramble u := by
  by_cases hp : u.phase = .idle
  · exact ⟨hp, settle_of_tainted_idle ht hp⟩
  · rw [settle_of_running hp] at h; exact absurd h hp

theorem WrittenInSpan.of_illegal (s : State) : WrittenInSpan s s.illegal :=
  ⟨0, 0, 0, ⟨Nat.zero_le _, .inl rfl⟩, Nat.le_refl 0, s.illegal_bufWritten _ _⟩

/-- The turn that ends an interfered command is the command's own last turn with its result drawn. -/
theorem interferedEnd_cases {s t : State} (hs : s.Inv) (htaint : s.tainted = true) (hturn : engineTurn s = .next t)
    (hrun : s.phase ≠ .idle) (hidle : t.phase = .idle) :
    ∃ u, u.Inv ∧ WrittenInSpan s u ∧ u.latch = s.latch ∧ u.phase = .idle ∧ t = scramble u := by
  rcases engineTurn_cases hturn with rfl | ⟨p, e, hp, _, hdec, rfl⟩ | ⟨p, i, u, hp, _, hdec, hu, rfl⟩
  · exact absurd hidle hrun
  · obtain ⟨hidle, e⟩ := settle_eq_scramble_of_idle (s.illegal_tainted.trans htaint) hidle
    exact ⟨s.illegal, State.illegal_inv hs hp hdec, .of_illegal s, State.raiseError_latch s _, hidle, e⟩
  · have hframe : TurnFrame s u := everyCommandKeepsTheTurnFrame s u i hu
    obtain ⟨hidle, e⟩ := settle_eq_scramble_of_idle (hframe.tainted.trans htaint) hidle
    exact ⟨u, exec_inv hs hp hdec hu, exec_writtenInSpan hs.control.sequenced hdec hu, hframe.latch, hidle, e⟩

/-- Settles O49: the command's last turn leaves the invariant, so no context, and the draw is a completion. -/
theorem interferedResultStaysInTheSpan : Obligations.InterferedResultStaysInTheSpan := by
  intro s t hs htaint hturn hrun hidle
  obtain ⟨u, hu, hspan, hlatch, hp, rfl⟩ := interferedEnd_cases hs htaint hturn hrun hidle
  have hctx : u.ctx = none := ((State.sequenced_idle_iff hp).mp hu.control.sequenced).1
  exact ⟨scramble_after_turn hspan hlatch, rfl, rfl, isCompletionValue_value _, hctx, rfl⟩

end Sys2Proof.Machine
end

section
/-! SUPPORT. The sample functions (40_companding.md): both encoders as segment and mantissa of a code, the round trip on codes,
the step bound on the error, and the sign bit. -/

namespace Sys2Proof.Machine

/-! ### Segment and mantissa -/

/-- A value lies in the segment found for it: at most its end, above every earlier one. -/
theorem segment_spec {ends : List Nat} {v : Nat} (h : segment ends v < ends.length) :
    v ≤ ends[segment ends v] ∧ ∀ j, (hj : j < segment ends v) → ends[j]'(hj.trans h) < v := by
  refine ⟨of_decide_eq_true (List.findIdx_getElem (p := fun e => decide (v ≤ e)) (w := h)), fun j hj => ?_⟩
  simpa using List.not_of_lt_findIdx (p := fun e => decide (v ≤ e)) hj

theorem segment_lt {ends : List Nat} {v e : Nat} (he : e ∈ ends) (hv : v ≤ e) : segment ends v < ends.length :=
  List.findIdx_lt_length_of_exists ⟨e, he, by simpa using hv⟩

/-- Segments whose ends are `2^(s+b) - 1` hold the values of `s + b` bits. -/
theorem segment_bits {ends : List Nat} {b v : Nat} (hends : ∀ s, (h : s < ends.length) → ends[s] + 1 = 2 ^ (s + b))
    (h : segment ends v < ends.length) :
    v < 2 ^ (segment ends v + b) ∧ (segment ends v ≠ 0 → 2 ^ (segment ends v - 1 + b) ≤ v) := by
  obtain ⟨hle, hlt⟩ := segment_spec h
  refine ⟨by have := hends _ h; omega, fun h0 => ?_⟩
  have := hends (segment ends v - 1) (by omega)
  have := hlt (segment ends v - 1) (by omega)
  omega

theorem segU_ends : ∀ s, (h : s < segU.length) → segU[s] + 1 = 2 ^ (s + 8) := by decide
theorem segA_ends : ∀ s, (h : s < segA.length) → segA[s] + 1 = 2 ^ (s + 5) := by decide

/-- The four mantissa bits below the leading one. -/
theorem mantissa_spec {v k : Nat} (hlo : 16 * 2 ^ k ≤ v) (hhi : v < 32 * 2 ^ k) :
    (v >>> k) &&& 0xF < 16 ∧ (16 + ((v >>> k) &&& 0xF)) * 2 ^ k ≤ v ∧ v < (17 + ((v >>> k) &&& 0xF)) * 2 ^ k := by
  have hpos : 0 < 2 ^ k := Nat.two_pow_pos k
  have hq : 16 ≤ v / 2 ^ k ∧ v / 2 ^ k < 32 := ⟨(Nat.le_div_iff_mul_le hpos).mpr hlo, (Nat.div_lt_iff_lt_mul hpos).mpr hhi⟩
  have hm : (v >>> k) &&& 0xF = v / 2 ^ k - 16 := by
    rw [Nat.shiftRight_eq_div_pow, show 0xF = 2 ^ 4 - 1 from rfl, Nat.and_two_pow_sub_one_eq_mod]
    omega
  rw [hm, show 16 + (v / 2 ^ k - 16) = v / 2 ^ k by omega, show 17 + (v / 2 ^ k - 16) = v / 2 ^ k + 1 by omega]
  exact ⟨by omega, Nat.div_mul_le_self v _, (Nat.div_lt_iff_lt_mul hpos).mp (Nat.lt_succ_self _)⟩

theorem segment_or_mantissa (s : Nat) {m : Nat} (hm : m < 16) : (s <<< 4) ||| m = 16 * s + m := by
  rw [← Nat.shiftLeft_add_eq_or_of_lt (i := 4) hm, Nat.shiftLeft_eq, Nat.mul_comm]

/-! ### μ-law -/

/-- The μ-law code of a sign, a segment and a mantissa (R60). -/
def ulawCode (neg : Bool) (s m : Nat) : Byte := BitVec.ofNat 8 ((16 * s + m) ^^^ if neg then 0x7F else 0xFF)

theorem ulawCode_seg : ∀ neg, ∀ s < 8, ∀ m < 16, ((~~~(ulawCode neg s m)).toNat >>> 4) &&& 7 = s := by decide

theorem ulawCode_sign : ∀ neg, ∀ s < 8, ∀ m < 16, (ulawCode neg s m).getLsbD 7 = !neg := by decide

/-- Decoding puts a code in the middle of its step, less the bias 0x84 (R62). -/
theorem ulawDec_ulawCode : ∀ neg, ∀ s < 8, ∀ m < 16, (ulawDec (ulawCode neg s m)).toInt =
    if neg then 132 - (((8 * m + 132) * 2 ^ s : Nat) : Int) else (((8 * m + 132) * 2 ^ s : Nat) : Int) - 132 := by decide

/-- The biased magnitude that R60 encodes. -/
theorem ulaw_magnitude (x : Sample) :
    (if x.toInt < 0 then (0x84 - x.toInt).toNat else (x.toInt + 0x84).toNat) = x.toInt.natAbs + 132 := by
  split <;> omega

/-- `ULAW_ENC` by segment and mantissa of the magnitude; past the last segment the code is the largest (R60). -/
theorem ulawEnc_eq (x : Sample) {v : Nat} (hv : v = x.toInt.natAbs + 132) :
    ulawEnc x = if segment segU v < 8 then ulawCode (x.toInt < 0) (segment segU v) ((v >>> (segment segU v + 3)) &&& 0xF)
      else ulawCode (x.toInt < 0) 7 15 := by
  have hm : ∀ k, (v >>> k) &&& 0xF < 16 := fun k => Nat.lt_succ_of_le Nat.and_le_right
  simp only [ulawEnc, ulaw_magnitude, ← hv, ulawCode, decide_eq_true_eq, segment_or_mantissa _ (hm _)]

/-- The step of R60 that the magnitude lies in; past the last segment only its lower end counts. -/
theorem ulawEnc_cases (x : Sample) : ∃ s m, s < 8 ∧ m < 16 ∧ ulawEnc x = ulawCode (x.toInt < 0) s m ∧
    (16 + m) * 2 ^ (s + 3) ≤ x.toInt.natAbs + 132 ∧
    (x.toInt.natAbs + 132 < (17 + m) * 2 ^ (s + 3) ∨ s = 7 ∧ m = 15) := by
  obtain ⟨v, hv⟩ : ∃ v, v = x.toInt.natAbs + 132 := ⟨_, rfl⟩
  rw [ulawEnc_eq x hv, ← hv]
  by_cases hs : segment segU v < 8
  · rw [if_pos hs]
    obtain ⟨hhi, hlo⟩ := segment_bits (b := 8) segU_ends hs
    have hlo : 16 * 2 ^ (segment segU v + 3) ≤ v := by
      rcases Nat.eq_zero_or_pos (segment segU v) with h0 | h0
      · rw [h0]; omega
      · have := hlo (by omega)
        rwa [show segment segU v - 1 + 8 = 4 + (segment segU v + 3) by omega, Nat.pow_add] at this
    have hhi : v < 32 * 2 ^ (segment segU v + 3) := by
      rwa [show segment segU v + 8 = 5 + (segment segU v + 3) by omega, Nat.pow_add] at hhi
    obtain ⟨hm, hle, hlt⟩ := mantissa_spec hlo hhi
    exact ⟨_, _, hs, hm, rfl, hle, .inl hlt⟩
  · rw [if_neg hs]
    have hbig : 0x7FFF < v := by
      by_contra hle
      exact hs (segment_lt (ends := segU) (e := 0x7FFF) (by decide) (by omega))
    exact ⟨7, 15, by decide, by decide, rfl, by omega, .inr ⟨rfl, rfl⟩⟩

/-- Past the last segment the code is the largest of its sign. -/
theorem ulawEnc_of_clamped {x : Sample} (h : 0x7FFF < x.toInt.natAbs + 132) : ulawEnc x = ulawCode (x.toInt < 0) 7 15 := by
  rw [ulawEnc_eq x rfl, if_neg fun hs => ?_]
  have hhi := (segment_bits segU_ends (v := x.toInt.natAbs + 132) hs).1
  have hpow := Nat.pow_le_pow_right (n := 2) (by decide) (show segment segU (x.toInt.natAbs + 132) + 8 ≤ 15 by omega)
  omega

theorem toInt_sample_bounds (x : Sample) : -32768 ≤ x.toInt ∧ x.toInt ≤ 32767 := by
  have hlo : -2 ^ 15 ≤ x.toInt := BitVec.le_toInt x
  have hhi : x.toInt < 2 ^ 15 := BitVec.toInt_lt
  omega

theorem ulaw_error_le (x : Sample) :
    ((ulawDec (ulawEnc x)).toInt - x.toInt).natAbs ≤ 2 ^ ((((~~~(ulawEnc x)).toNat >>> 4) &&& 7) + 3) := by
  obtain ⟨s, m, hs, hm, hcode, hle, hlt⟩ := ulawEnc_cases x
  have hx := toInt_sample_bounds x
  rw [hcode, ulawCode_seg _ s hs m hm, ulawDec_ulawCode _ s hs m hm]
  by_cases hneg : x.toInt < 0 <;> simp only [hneg, decide_true, decide_false, if_true, if_false, Bool.false_eq_true] <;>
    interval_cases s <;> omega

/-! ### A-law -/

/-- The A-law code of a sign, a segment and a mantissa (R61). -/
def alawCode (neg : Bool) (s m : Nat) : Byte := BitVec.ofNat 8 ((16 * s + m) ^^^ if neg then 0x55 else 0xD5)

/-- The step of a segment in the 13-bit values of R61: the two lowest segments share one. -/
def alawShift (s : Nat) : Nat := if s < 2 then 1 else s

theorem alawShift_of_pos {s : Nat} (h : 0 < s) : alawShift s = s := by
  unfold alawShift
  split <;> omega

/-- Where a segment starts. -/
def alawBase (s : Nat) : Nat := if s = 0 then 0 else 16 * 2 ^ alawShift s

theorem alawCode_seg : ∀ neg, ∀ s < 8, ∀ m < 16, (((alawCode neg s m).toNat ^^^ 0x55) >>> 4) &&& 7 = s := by decide

theorem alawCode_sign : ∀ neg, ∀ s < 8, ∀ m < 16, (alawCode neg s m).getLsbD 7 = !neg := by decide

/-- Decoding puts a code in the middle of its step (R63). -/
theorem alawDec_alawCode : ∀ neg, ∀ s < 8, ∀ m < 16, (alawDec (alawCode neg s m)).toInt =
    (if neg then -1 else 1) * ((8 * (alawBase s + m * 2 ^ alawShift s) + 4 * 2 ^ alawShift s : Nat) : Int) := by decide

/-- The magnitude that R61 encodes, of a negative sample its complement. -/
def alawMagnitude (x : Sample) : Nat := (if x.toInt < 0 then (-x.toInt - 1).toNat else x.toInt.toNat) / 8

theorem alawMagnitude_lt (x : Sample) : alawMagnitude x < 4096 := by
  have := toInt_sample_bounds x
  unfold alawMagnitude
  split <;> omega

/-- The code of the 13-bit value `y`, the rest of `ALAW_ENC` after its shift (R61). -/
def alawEncValue (y : Int) : Byte :=
  let v := if y < 0 then (-y - 1).toNat else y.toNat
  let s := segment segA v
  let code := (s <<< 4) ||| ((v >>> alawShift s) &&& 0xF)
  BitVec.ofNat 8 ((if s < 8 then code else 0x7F) ^^^ if y < 0 then 0x55 else 0xD5)

/-- The shift by three of R61 is a division by eight, whichever type its count is read at. -/
theorem alawEnc_eq_alawEncValue (x : Sample) : alawEnc x = alawEncValue (x.toInt / 8) := by
  have hnat : x.toInt >>> (3 : Nat) = x.toInt / 8 := Int.shiftRight_eq_div_pow ..
  have hint : x.toInt >>> (3 : Int) = x.toInt / 8 := (Int.shiftRight_natCast_right x.toInt 3).trans hnat
  simp only [alawEnc, hnat, hint, alawEncValue, alawShift]
  split_ifs <;> rfl

/-- `ALAW_ENC` by segment and mantissa of the magnitude, which no sample takes past the last segment (R61). -/
theorem alawEnc_eq (x : Sample) {v : Nat} (hv : v = alawMagnitude x) :
    alawEnc x = alawCode (x.toInt < 0) (segment segA v) ((v >>> alawShift (segment segA v)) &&& 0xF) := by
  have hseg : segment segA v < 8 :=
    segment_lt (ends := segA) (e := 0xFFF) (by decide) (by have := alawMagnitude_lt x; omega)
  have hm : ∀ k, (v >>> k) &&& 0xF < 16 := fun k => Nat.lt_succ_of_le Nat.and_le_right
  have hsign : x.toInt / 8 < 0 ↔ x.toInt < 0 := by omega
  have hmag : (if x.toInt < 0 then (-(x.toInt / 8) - 1).toNat else (x.toInt / 8).toNat) = v := by
    rw [hv, alawMagnitude]
    split <;> omega
  simp only [alawEnc_eq_alawEncValue, alawEncValue, hsign, hmag, hseg, if_true, alawCode, decide_eq_true_eq,
    segment_or_mantissa _ (hm _)]

/-- The step of R61 that the magnitude lies in. -/
theorem alawEnc_cases (x : Sample) : ∃ s m, s < 8 ∧ m < 16 ∧ alawEnc x = alawCode (x.toInt < 0) s m ∧
    alawBase s + m * 2 ^ alawShift s ≤ alawMagnitude x ∧ alawMagnitude x < alawBase s + (m + 1) * 2 ^ alawShift s := by
  obtain ⟨v, hv⟩ : ∃ v, v = alawMagnitude x := ⟨_, rfl⟩
  rw [alawEnc_eq x hv, ← hv]
  have hs : segment segA v < segA.length :=
    segment_lt (e := 0xFFF) (by decide) (by have := alawMagnitude_lt x; omega)
  obtain ⟨hhi, hlo⟩ := segment_bits (b := 5) segA_ends hs
  rcases Nat.eq_zero_or_pos (segment segA v) with h0 | h0
  · rw [h0] at hhi ⊢
    refine ⟨0, (v >>> 1) &&& 0xF, by decide, Nat.lt_succ_of_le Nat.and_le_right, rfl, ?_⟩
    rw [show 0xF = 2 ^ 4 - 1 from rfl, Nat.and_two_pow_sub_one_eq_mod, Nat.shiftRight_eq_div_pow]
    have hbase : alawBase 0 = 0 := rfl
    have hstep : alawShift 0 = 1 := rfl
    rw [hbase, hstep]
    omega
  · have hlo : 16 * 2 ^ alawShift (segment segA v) ≤ v := by
      have := hlo (by omega)
      rwa [show segment segA v - 1 + 5 = 4 + segment segA v by omega, Nat.pow_add, ← alawShift_of_pos h0] at this
    have hhi : v < 32 * 2 ^ alawShift (segment segA v) := by
      rwa [Nat.add_comm, Nat.pow_add, ← alawShift_of_pos h0] at hhi
    obtain ⟨hm, hle, hlt⟩ := mantissa_spec hlo hhi
    refine ⟨_, _, hs, hm, rfl, ?_⟩
    rw [alawBase, if_neg (by omega)]
    constructor <;> linarith

theorem alaw_error_le (x : Sample) : ((alawDec (alawEnc x)).toInt - x.toInt).natAbs ≤
    (if (((alawEnc x).toNat ^^^ 0x55) >>> 4) &&& 7 < 2 then 16
      else 2 ^ (((((alawEnc x).toNat ^^^ 0x55) >>> 4) &&& 7) + 3)) := by
  obtain ⟨s, m, hs, hm, hcode, hle, hlt⟩ := alawEnc_cases x
  rw [hcode, alawCode_seg _ s hs m hm, alawDec_alawCode _ s hs m hm]
  unfold alawMagnitude at hle hlt
  by_cases hneg : x.toInt < 0 <;>
    simp only [hneg, decide_true, decide_false, if_true, if_false, Bool.false_eq_true] at hle hlt ⊢ <;>
    interval_cases s <;> simp [alawBase, alawShift] at hle hlt ⊢ <;> omega

/-! ### The statements -/

/-- Settles O7, law by law. -/
theorem compandingErrorWithinStep : Obligations.CompandingErrorWithinStep := fun x => ⟨ulaw_error_le x, alaw_error_le x⟩

/-- Settles O8: the sign bit is that of the code's sign; past the last μ-law segment the code is the largest. -/
theorem codeSignBitAndClamp : Obligations.CodeSignBitAndClamp := by
  intro x
  obtain ⟨s, m, hs, hm, hu, -⟩ := ulawEnc_cases x
  obtain ⟨s', m', hs', hm', ha, -⟩ := alawEnc_cases x
  refine ⟨?_, ?_, fun h => ?_, fun h => ?_⟩
  · rw [hu, ulawCode_sign _ s hs m hm]; simp
  · rw [ha, alawCode_sign _ s' hs' m' hm']; simp
  · rw [ulawEnc_of_clamped (by omega), decide_eq_false (by omega)]; rfl
  · rw [ulawEnc_of_clamped (by omega), decide_eq_true (by omega)]; rfl

/-- Settles O6: each of the 256 codes is run through its decoder and encoder. -/
theorem compandingRoundTripOnCodes : Obligations.CompandingRoundTripOnCodes := by
  unfold Obligations.CompandingRoundTripOnCodes
  decide

end Sys2Proof.Machine
end

section
/-! SUPPORT. SWAP16 (41_byte_order.md R70), SCALE and the 32-bit accumulator (42_mixer.md R75, R78). -/

namespace Sys2Proof.Machine

/-! ### SWAP16 -/

theorem swap16_swap16 (b : List Byte) : swap16 (swap16 b) = b := by
  induction b using swap16.induct with
  | case1 lo hi bs ih => simp [swap16, ih]
  | case2 bs h =>
    have hfix : swap16 bs = bs := by
      match bs, h with
      | [], _ => rfl
      | [_], _ => rfl
      | lo :: hi :: bs, h => exact absurd rfl (h lo hi bs)
    rw [hfix, hfix]

theorem swap16_pair (b : List Byte) {k : Nat} (h : 2 * k + 1 < b.length) :
    (swap16 b)[2 * k]? = b[2 * k + 1]? ∧ (swap16 b)[2 * k + 1]? = b[2 * k]? := by
  induction k generalizing b with
  | zero =>
    match b, h with
    | lo :: hi :: bs, _ => exact ⟨rfl, rfl⟩
  | succ k ih =>
    match b, h with
    | lo :: hi :: bs, h => exact ih bs (by simp only [List.length_cons] at h; omega)

/-- Settles O9, by induction on the pairs. -/
theorem swapMovesPairsAndIsSelfInverse : Obligations.SwapMovesPairsAndIsSelfInverse := fun b =>
  ⟨length_swap16 b, swap16_swap16 b, fun _ h => swap16_pair b h⟩

/-! ### SCALE -/

/-- `k` is the root that R11 asks for: the largest with `k*k*n ≤ q`. -/
def IsRoot (q n k : Nat) : Prop := k * k * n ≤ q ∧ q < (k + 1) * (k + 1) * n

/-- The bits still to come close the gap to the root: it lies in `k .. k + 2^b - 1`. -/
theorem rootBits_isRoot {q n : Nat} (b : Nat) {k : Nat} (hlo : k * k * n ≤ q) (hhi : q < (k + 2 ^ b) * (k + 2 ^ b) * n) :
    IsRoot q n (rootBits q n b k) := by
  induction b generalizing k with
  | zero => exact ⟨hlo, hhi⟩
  | succ b ih =>
    rw [rootBits, rootBit]
    split
    next hfits => exact ih hfits (by rwa [Nat.add_assoc, ← Nat.two_mul, ← Nat.pow_succ'])
    next hbig => exact ih hlo (Nat.lt_of_not_le hbig)

theorem isqrtFloorDiv_isRoot (q : Nat) {n : Nat} (hn : 1 ≤ n) : IsRoot q n (isqrtFloorDiv q n) := by
  refine rootBits_isRoot _ (by simp) ?_
  have hq : q < 2 ^ (q.log2 + 1) := Nat.lt_log2_self
  calc q < 2 ^ (q.log2 + 1) := hq
    _ ≤ 2 ^ (q.log2 + 1) * (2 ^ (q.log2 + 1) * n) := Nat.le_mul_of_pos_right _ (by positivity)
    _ = (0 + 2 ^ (q.log2 + 1)) * (0 + 2 ^ (q.log2 + 1)) * n := by ring

/-- Settles O10: the root of R11, found bit by bit, is the magnitude. -/
theorem scaleTruncatesTheQuotient : Obligations.ScaleTruncatesTheQuotient := by
  intro acc a ha
  have hsq : ((acc * acc).toNat : Int) = acc * acc := Int.toNat_of_nonneg (mul_self_nonneg acc)
  obtain ⟨hlo, hhi⟩ := isqrtFloorDiv_isRoot (acc * acc).toNat ha
  refine ⟨_, rfl, ?_, ?_⟩
  · rw [← hsq]; exact_mod_cast hlo
  · rw [← hsq]; exact_mod_cast hhi

/-! ### The accumulator -/

/-- What a channel adds at an output position (R76). -/
def channelTerm (s : State) (i : Nat) (c : Channel) : Int :=
  if c.valid = true ∧ i < c.len / 2 then (s.sample (c.start + 2 * i)).toInt else 0

theorem channelTerm_bounds (s : State) (i : Nat) (c : Channel) : -32768 ≤ channelTerm s i c ∧ channelTerm s i c ≤ 32767 := by
  unfold channelTerm
  split
  · exact toInt_sample_bounds _
  · omega

theorem mixExact_eq_sum (s : State) (i : Nat) : mixExact s i = (s.channels.map (channelTerm s i)).sum := by
  simp only [mixExact, State.channels, List.map_map, Function.comp_def, channelTerm]

/-- A 32-bit addition that stays in range is exact. -/
theorem toInt_add_of_bounds {a b : BitVec 32} (hlo : -2 ^ 31 ≤ a.toInt + b.toInt) (hhi : a.toInt + b.toInt < 2 ^ 31) :
    (a + b).toInt = a.toInt + b.toInt := by
  rw [BitVec.toInt_add]
  exact Int.bmod_eq_of_le (by simpa using hlo) (by simpa using hhi)

/-- One addition of the accumulator (R78). -/
def mixStep (s : State) (i : Nat) (acc : BitVec 32) (c : Channel) : BitVec 32 :=
  if c.valid && decide (i < c.len / 2) then acc + (s.sample (c.start + 2 * i)).signExtend 32 else acc

theorem mixSum_eq_foldl (s : State) (chs : List Channel) (i : Nat) : mixSum s chs i = chs.foldl (mixStep s i) 0 := rfl

/-- One addition of the accumulator, exact while the sum stays in range. -/
theorem mixStep_exact (s : State) (i : Nat) (c : Channel) {acc : BitVec 32} (hlo : -2 ^ 31 + 32768 ≤ acc.toInt)
    (hhi : acc.toInt + 32767 < 2 ^ 31) : (mixStep s i acc c).toInt = acc.toInt + channelTerm s i c := by
  simp only [mixStep, channelTerm, Bool.and_eq_true, decide_eq_true_eq]
  split
  · have hx := toInt_sample_bounds (s.sample (c.start + 2 * i))
    have hext : ((s.sample (c.start + 2 * i)).signExtend 32).toInt = (s.sample (c.start + 2 * i)).toInt :=
      BitVec.toInt_signExtend_of_le (by decide)
    rw [toInt_add_of_bounds, hext] <;> rw [hext] <;> omega
  · simp

/-- After `k` of at most 65536 channels the sum lies between `-32768*k` and `32767*k` (R78). -/
theorem foldl_mixStep_exact (s : State) (i : Nat) (chs : List Channel) {k : Nat} {acc : BitVec 32}
    (hk : k + chs.length ≤ 65536) (hlo : -32768 * (k : Int) ≤ acc.toInt) (hhi : acc.toInt ≤ 32767 * (k : Int)) :
    (chs.foldl (mixStep s i) acc).toInt = acc.toInt + (chs.map (channelTerm s i)).sum := by
  induction chs generalizing k acc with
  | nil => simp
  | cons c chs ih =>
    rw [List.length_cons] at hk
    have hstep := mixStep_exact s i c (acc := acc) (by omega) (by omega)
    have hc := channelTerm_bounds s i c
    rw [List.foldl_cons, ih (k := k + 1) (by omega) (by rw [hstep]; push_cast; omega) (by rw [hstep]; push_cast; omega),
      hstep, List.map_cons, List.sum_cons, Int.add_assoc]

/-- Settles O11, by induction on the channels. -/
theorem accumulatorIsTheExactSum : Obligations.AccumulatorIsTheExactSum := by
  intro s i hlen
  rw [mixExact_eq_sum, mixSum_eq_foldl, foldl_mixStep_exact s i s.channels (k := 0) (by simpa using hlen) (by simp) (by simp)]
  simp

end Sys2Proof.Machine
end

section
/-! SUPPORT. The buffer commands CENC, CDEC, H2N and N2H: what a completed write leaves (R66–R72), and the region checks they
share in the order of R105. -/

namespace Sys2Proof.Machine

/-! ### A block written and the command completed -/

/-- The output stands from latch.D_ADDR on, nothing else changed, and the command succeeded (60_exceptions.md R102). -/
theorem writeBytes_complete_spec {s t : State} {out : List Byte} {need : Nat} (hlen : out.length = need)
    (ht : t = (s.writeBytes s.dstStart out).complete need) :
    (∀ k, (hk : k < out.length) → t.byte (s.dstStart + k) = out[k]) ∧
      BytesKeptOutside s t s.dstStart need ∧ Succeeded t need ∧ BufferFrame s t := by
  subst ht
  refine ⟨fun k hk => ?bytes, fun x hx => ?kept, ?succeeded, ?frame⟩
  case bytes => rw [State.byte_complete, State.byte_writeBytes_inside s _ hk]
  case kept => rw [State.byte_complete, State.byte_writeBytes_outside s (by omega)]
  case succeeded => simp [Succeeded, CompletionCode.value]
  case frame => simp [BufferFrame, TurnFrame]

@[simp] theorem State.getElem_bytes (s : State) (a n : Nat) {k : Nat} (hk : k < (s.bytes a n).length) :
    (s.bytes a n)[k] = s.byte (a + k) := by
  simp [State.bytes]

/-! ### Samples laid out little-endian (00_scope.md R12) -/

theorem halfBytes_append (v : BitVec 16) : v.extractLsb' 8 8 ++ v.extractLsb' 0 8 = v := by
  apply BitVec.eq_of_getLsbD_eq
  intro k hk
  rw [BitVec.getLsbD_append]
  split
  next hlow => simp [hlow]
  next hhigh => simp [show k - 8 < 8 by omega, show 8 + (k - 8) = k by omega]

theorem getElem?_flatMap_halfBytes (vs : List Sample) (k : Nat) :
    (vs.flatMap halfBytes)[2 * k]? = vs[k]?.map (BitVec.extractLsb' 0 8) ∧
      (vs.flatMap halfBytes)[2 * k + 1]? = vs[k]?.map (BitVec.extractLsb' 8 8) := by
  induction vs generalizing k with
  | nil => simp
  | cons v vs ih =>
    cases k with
    | zero => simp [halfBytes]
    | succ k => simpa [halfBytes, Nat.mul_succ] using ih k

@[simp] theorem length_flatMap_halfBytes (vs : List Sample) : (vs.flatMap halfBytes).length = 2 * vs.length := by
  simp [List.length_flatMap, Nat.mul_comm]

/-- A block of samples in BUF reads back sample by sample. -/
theorem sample_of_halfBytes {t : State} {a : Nat} {vs : List Sample}
    (h : ∀ k, (hk : k < (vs.flatMap halfBytes).length) → t.byte (a + k) = (vs.flatMap halfBytes)[k]) {k : Nat}
    (hk : k < vs.length) : t.sample (a + 2 * k) = vs[k] := by
  have hlen := length_flatMap_halfBytes vs
  obtain ⟨hlo, hhi⟩ := getElem?_flatMap_halfBytes vs k
  rw [List.getElem?_eq_getElem (by omega), List.getElem?_eq_getElem hk, Option.map_some, Option.some_inj] at hlo hhi
  rw [State.sample, Nat.add_assoc, h (2 * k + 1) (by omega), h (2 * k) (by omega), hlo, hhi, halfBytes_append]

/-! ### The checks they share, in the order of R105 -/

theorem failIf_of_true {b : Bool} (h : b = true) (f : Failure) : failIf b f = some f := by simp [h]
theorem failIf_of_false {b : Bool} (h : b = false) (f : Failure) : failIf b f = none := by simp [h]

theorem runBuffer_of_failure {s : State} {checks : List (Option Failure)} {f : Failure} (h : firstFailure checks = some f)
    (out : List Byte) (need : Nat) : runBuffer s checks out need = .next (s.raiseError f) := by
  simp [runBuffer, h]

section
variable {s : State} {need : Nat}

theorem srcCheck_of_outOfRange (h : ¬ InRange s s.srcStart s.srcLength) :
    srcCheck s = some (.of .bufferOutOfRange 0 s.srcStart) :=
  failIf_of_true (State.outOfRange_eq_true_iff.mpr h) _

theorem srcCheck_of_inRange (h : InRange s s.srcStart s.srcLength) : srcCheck s = none :=
  failIf_of_false (State.outOfRange_eq_false_iff.mpr h) _

theorem firstFailure_dstChecks_of_small (h : s.dstCapacity < need) (cs : List (Option Failure)) :
    firstFailure (dstChecks s need ++ cs) = some (.of .outputTooSmall need s.dstCapacity) := by
  simp [dstChecks, h]

theorem firstFailure_dstChecks_of_outOfRange (hcap : need ≤ s.dstCapacity) (h : ¬ InRange s s.dstStart need)
    (cs : List (Option Failure)) :
    firstFailure (dstChecks s need ++ cs) = some (.of .bufferOutOfRange 1 s.dstStart) := by
  have hbad : s.outOfRange (s.dstRegion need) = true := State.outOfRange_eq_true_iff.mpr h
  simp [dstChecks, Nat.not_lt.mpr hcap, hbad, rangeFailure]

theorem firstFailure_dstChecks_of_fits (h : DstFits s need) (cs : List (Option Failure)) :
    firstFailure (dstChecks s need ++ cs) = firstFailure cs := by
  have hgood : s.outOfRange (s.dstRegion need) = false := State.outOfRange_eq_false_iff.mpr h.2
  simp [dstChecks, Nat.not_lt.mpr h.1, hgood]

theorem srcOverlapCheck_of_overlap (h : Overlap s.srcStart s.srcLength s.dstStart need) :
    srcOverlapCheck s need = some (.of .regionOverlap 0 0) :=
  failIf_of_true (Region.overlaps_eq_true_iff.mpr h) _

end

/-- Source range, capacity, destination range, overlap. -/
def regionChecks (s : State) (need : Nat) : List (Option Failure) :=
  srcCheck s :: (dstChecks s need ++ [srcOverlapCheck s need])

/-- What `regionChecks` reports, clause by clause. -/
def RegionErrors (s : State) (need : Nat) (reported : Failure → Prop) : Prop :=
  (¬ InRange s s.srcStart s.srcLength → reported (.of .bufferOutOfRange 0 s.srcStart)) ∧
  (InRange s s.srcStart s.srcLength → s.dstCapacity < need → reported (.of .outputTooSmall need s.dstCapacity)) ∧
  (InRange s s.srcStart s.srcLength → need ≤ s.dstCapacity → ¬ InRange s s.dstStart need →
    reported (.of .bufferOutOfRange 1 s.dstStart)) ∧
  (InRange s s.srcStart s.srcLength → DstFits s need → Overlap s.srcStart s.srcLength s.dstStart need →
    reported (.of .regionOverlap 0 0))

theorem regionErrors_of_firstFailure {s : State} {need : Nat} {reported : Failure → Prop}
    (h : ∀ f, firstFailure (regionChecks s need) = some f → reported f) : RegionErrors s need reported := by
  refine ⟨fun hsrc => h _ ?_, fun hsrc hcap => h _ ?_, fun hsrc hcap hdst => h _ ?_, fun hsrc hfits hov => h _ ?_⟩
  · rw [regionChecks, srcCheck_of_outOfRange hsrc, firstFailure_some]
  · rw [regionChecks, srcCheck_of_inRange hsrc, firstFailure_none, firstFailure_dstChecks_of_small hcap]
  · rw [regionChecks, srcCheck_of_inRange hsrc, firstFailure_none, firstFailure_dstChecks_of_outOfRange hcap hdst]
  · rw [regionChecks, srcCheck_of_inRange hsrc, firstFailure_none, firstFailure_dstChecks_of_fits hfits,
      srcOverlapCheck_of_overlap hov, firstFailure_some]

/-! ### CENC (R66, R67) -/

theorem exec_cenc {i : Instr} {law : Law} (h : (i = .cencU ∧ law = .mu) ∨ (i = .cencA ∧ law = .a)) (s : State) :
    exec i s = runBuffer s (cencChecks s) (cencOutput law s) (cencNeed s) := by
  rcases h with ⟨rfl, rfl⟩ | ⟨rfl, rfl⟩ <;> rfl

theorem firstFailure_cencChecks_of_odd {s : State} (h : s.srcLength % 2 = 1) :
    firstFailure (cencChecks s) = some (.of .oddLength s.srcLength 0) := by
  simp [cencChecks, h]

theorem firstFailure_cencChecks_of_even {s : State} (h : s.srcLength % 2 = 0) :
    firstFailure (cencChecks s) = firstFailure (regionChecks s (s.srcLength / 2)) := by
  simp [cencChecks, h, regionChecks, cencNeed]

/-- Settles O12. -/
theorem cencEncodesEverySample : Obligations.CencEncodesEverySample := by
  intro s i law hi heven hready
  obtain ⟨hbytes, hrest⟩ := writeBytes_complete_spec (length_cencOutput law s) rfl
  refine ⟨_, (exec_cenc hi s).trans (runBuffer_of_pass _ _ (cencChecks_pass_iff.mpr ⟨heven, hready⟩)), fun k hk => ?_, hrest⟩
  rw [hbytes k (by simpa [cencNeed] using hk)]
  simp [cencOutput]

/-- Settles O13: the length first, then the region checks. -/
theorem cencReportsTheFirstError : Obligations.CencReportsTheFirstError := by
  intro s i hi
  obtain ⟨law, hexec⟩ : ∃ law, exec i s = runBuffer s (cencChecks s) (cencOutput law s) (cencNeed s) := by
    rcases hi with rfl | rfl
    · exact ⟨.mu, rfl⟩
    · exact ⟨.a, rfl⟩
  rw [hexec]
  refine ⟨fun hodd => runBuffer_of_failure (firstFailure_cencChecks_of_odd hodd) _ _, fun heven => ?_⟩
  exact regionErrors_of_firstFailure (reported := fun f => runBuffer s _ _ _ = .next (s.raiseError f)) fun f hf =>
    runBuffer_of_failure ((firstFailure_cencChecks_of_even heven).trans hf) _ _

/-! ### CDEC (R68, R69) -/

theorem exec_cdec {i : Instr} {law : Law} (h : (i = .cdecU ∧ law = .mu) ∨ (i = .cdecA ∧ law = .a)) (s : State) :
    exec i s = runBuffer s (cdecChecks s) (cdecOutput law s) (cdecNeed s) := by
  rcases h with ⟨rfl, rfl⟩ | ⟨rfl, rfl⟩ <;> rfl

/-- The samples that CDEC lays out. -/
def cdecSamples (law : Law) (s : State) : List Sample :=
  (List.range s.srcLength).map fun k => lawDec law (s.byte (s.srcStart + k))

theorem cdecOutput_eq (law : Law) (s : State) : cdecOutput law s = (cdecSamples law s).flatMap halfBytes := by
  rw [cdecOutput, cdecSamples, List.flatMap_map]

/-- Settles O14. -/
theorem cdecDecodesEveryCode : Obligations.CdecDecodesEveryCode := by
  intro s i law hi hready
  obtain ⟨hbytes, hrest⟩ := writeBytes_complete_spec (length_cdecOutput law s) rfl
  refine ⟨_, (exec_cdec hi s).trans (runBuffer_of_pass _ _ (cdecChecks_pass_iff.mpr hready)), fun k hk => ?_, hrest⟩
  simp only [cdecOutput_eq] at hbytes ⊢
  rw [sample_of_halfBytes hbytes (by simpa [cdecSamples] using hk)]
  simp [cdecSamples]

/-- Settles O15. -/
theorem cdecReportsTheFirstError : Obligations.CdecReportsTheFirstError := by
  intro s i hi
  obtain ⟨law, hexec⟩ : ∃ law, exec i s = runBuffer s (regionChecks s (2 * s.srcLength)) (cdecOutput law s) (cdecNeed s) := by
    rcases hi with rfl | rfl
    · exact ⟨.mu, rfl⟩
    · exact ⟨.a, rfl⟩
  rw [hexec]
  exact regionErrors_of_firstFailure (reported := fun f => runBuffer s _ _ _ = .next (s.raiseError f)) fun f hf =>
    runBuffer_of_failure hf _ _

/-! ### H2N and N2H (R71, R72) -/

theorem exec_swap {i : Instr} (h : i = .h2n ∨ i = .n2h) (s : State) :
    exec i s = runBuffer s (swapChecks s) (swap16 (s.bytes s.srcStart s.srcLength)) (swapNeed s) := by
  rcases h with rfl | rfl <;> rfl

theorem firstFailure_swapChecks_of_short {s : State} (h : s.srcLength < 2) :
    firstFailure (swapChecks s) = some (.of .tooShort s.srcLength 0) := by
  simp [swapChecks, h]

theorem firstFailure_swapChecks_of_odd {s : State} (h : 2 ≤ s.srcLength) (hodd : s.srcLength % 2 = 1) :
    firstFailure (swapChecks s) = some (.of .oddLength s.srcLength 0) := by
  simp [swapChecks, Nat.not_lt.mpr h, hodd]

theorem firstFailure_swapChecks_of_even {s : State} (h : 2 ≤ s.srcLength) (heven : s.srcLength % 2 = 0) :
    firstFailure (swapChecks s) = firstFailure (regionChecks s s.srcLength) := by
  simp [swapChecks, Nat.not_lt.mpr h, heven, regionChecks, swapNeed]

/-- Settles O16. -/
theorem swapCommandsExchangeEveryPair : Obligations.SwapCommandsExchangeEveryPair := by
  intro s i hi hlong heven hready
  have hlen : (swap16 (s.bytes s.srcStart s.srcLength)).length = swapNeed s := by simp [swapNeed]
  obtain ⟨hbytes, hrest⟩ := writeBytes_complete_spec hlen rfl
  refine ⟨_, (exec_swap hi s).trans (runBuffer_of_pass _ _ (swapChecks_pass_iff.mpr ⟨hlong, heven, hready⟩)),
    fun k hk => ?_, hrest⟩
  obtain ⟨heven, hodd⟩ := swap16_pair (s.bytes s.srcStart s.srcLength) (k := k) (by simp; omega)
  rw [List.getElem?_eq_getElem (by simp; omega), List.getElem?_eq_getElem (by simp; omega), Option.some_inj,
    State.getElem_bytes] at heven hodd
  rw [Nat.add_assoc, Nat.add_assoc, hbytes (2 * k) (by simp; omega), hbytes (2 * k + 1) (by simp; omega), heven, hodd]
  exact ⟨rfl, rfl⟩

/-- Settles O17: TooShort, OddLength, then the region checks. -/
theorem swapCommandsReportTheFirstError : Obligations.SwapCommandsReportTheFirstError := by
  intro s i hi
  rw [exec_swap hi]
  refine ⟨fun hshort => runBuffer_of_failure (firstFailure_swapChecks_of_short hshort) _ _,
    fun hlong hodd => runBuffer_of_failure (firstFailure_swapChecks_of_odd hlong hodd) _ _, fun hlong heven => ?_⟩
  exact regionErrors_of_firstFailure (reported := fun f => runBuffer s _ _ _ = .next (s.raiseError f)) fun f hf =>
    runBuffer_of_failure ((firstFailure_swapChecks_of_even hlong heven).trans hf) _ _

end Sys2Proof.Machine
end

section
/-! SUPPORT. MIX (42_mixer.md): its three outcomes once the checks pass (R76, R77), and the checks in the order of R105. -/

namespace Sys2Proof.Machine

/-! ### The outcomes of MIX -/

theorem mixRun_of_inactive {s : State} (h : activeCount s.hw s.channels = 0) : mixRun s = s.complete 0 := by
  rw [mixRun, if_pos h]

theorem State.channels_of_single {s : State} (h : s.srcLength = 1) : s.channels = [s.channel 0] := by
  simp [State.channels, h]

theorem mixRun_of_single {s : State} (hact : 0 < activeCount s.hw s.channels) (h : s.srcLength = 1) :
    mixRun s = (s.writeBytes s.dstStart (s.bytes (s.channel 0).start (s.channel 0).len)).complete (s.channel 0).len := by
  rw [mixRun, if_neg (by omega), State.channels_of_single h]

theorem mixRun_of_many {s : State} (hact : 0 < activeCount s.hw s.channels) (h : s.srcLength ≠ 1) :
    mixRun s = mixChannels s s.channels := by
  rw [mixRun, if_neg (by omega)]
  split
  next c hc => exact absurd (by rw [← s.length_channels, hc]; rfl) h
  next => rfl

/-- The output samples of the mixing path (R75, R76). -/
def mixSamples (s : State) (chs : List Channel) : List Sample :=
  (List.range (longest chs)).map fun i =>
    BitVec.ofInt 16 (clamp16 (scale s.hw.mixRound (mixSum s chs i).toInt (activeCount s.hw chs)))

@[simp] theorem length_mixSamples (s : State) (chs : List Channel) : (mixSamples s chs).length = longest chs := by
  simp [mixSamples]

theorem mixChannels_eq (s : State) (chs : List Channel) : mixChannels s chs =
    { (s.writeBytes s.dstStart ((mixSamples s chs).flatMap halfBytes)).complete (2 * longest chs) with
      acc := Config.accOutsideMix s.draws, draws := s.draws + 1 } := by
  have hout : (mixAccumulate s chs).acc.flatMap (mixSample s.hw (activeCount s.hw chs)) =
      (mixSamples s chs).flatMap halfBytes := by
    simp only [mixAccumulate, mixSamples, List.flatMap_map, mixSample]
  rw [← hout]
  rfl

/-- A clipped value fits a sample (00_scope.md R11). -/
theorem toInt_ofInt_clamp16 (y : Int) : (BitVec.ofInt 16 (clamp16 y)).toInt = clamp16 y := by
  rw [BitVec.toInt_ofInt]
  exact Int.bmod_eq_of_le (by simp only [clamp16]; omega) (by simp only [clamp16]; omega)

theorem exec_mix_of_ready {s : State} (h : MixReady s) : exec .mix s = .next (mixRun s) := execMix_of_ready h

/-- Settles O18: the accumulator is exact (O11), and each clipped sum is one sample of the output. -/
theorem mixWritesTheScaledSums : Obligations.MixWritesTheScaledSums := by
  intro s hmax hready hmany hact
  have hexact : ∀ k, (mixSum s s.channels k).toInt = mixExact s k := fun k =>
    accumulatorIsTheExactSum s k (hready.1.trans hmax)
  have hlen : ((mixSamples s s.channels).flatMap halfBytes).length = 2 * longest s.channels := by
    rw [length_flatMap_halfBytes, length_mixSamples]
  obtain ⟨hbytes, hkept, hdone, hframe, hctx, hport, hlog, -, -⟩ := writeBytes_complete_spec hlen rfl
  refine ⟨_, (exec_mix_of_ready hready).trans (congrArg _ ((mixRun_of_many hact hmany).trans (mixChannels_eq s _))),
    fun k hk => ?_, hkept, hdone, hframe, hctx, hport, hlog⟩
  have hsample := sample_of_halfBytes hbytes (k := k) (by simpa using hk)
  have hround : s.hw.mixRound = .trunc := by cases s.hw.mixRound; rfl
  refine (congrArg BitVec.toInt hsample).trans ?_
  simp only [mixSamples, List.getElem_map, List.getElem_range, toInt_ofInt_clamp16, hexact, hround]

/-- Settles O19. -/
theorem mixCopiesASingleChannel : Obligations.MixCopiesASingleChannel := by
  intro s hready hone hact
  obtain ⟨hbytes, hrest⟩ := writeBytes_complete_spec (s := s) (s.length_bytes (s.channel 0).start (s.channel 0).len) rfl
  refine ⟨_, (exec_mix_of_ready hready).trans (congrArg _ (mixRun_of_single hact hone)), fun k hk => ?_, hrest⟩
  rw [hbytes k (by simpa using hk), State.getElem_bytes]

/-- Settles O20. -/
theorem mixWithoutActiveChannelIsEmpty : Obligations.MixWithoutActiveChannelIsEmpty := fun _ hready hact =>
  (exec_mix_of_ready hready).trans (congrArg _ (mixRun_of_inactive hact))

/-! ### The checks, in the order of R105 -/

theorem exec_mix_of_failure {s : State} {f : Failure} (h : firstFailure (mixChecks s) = some f) :
    exec .mix s = .next (s.raiseError f) := by
  simp [exec, execMix, h]

/-- A channel check reports the lowest channel that is bad. -/
theorem channelCheck_eq_some {s : State} {bad : Channel → Bool} {j : Nat} (hj : j < s.srcLength)
    (hv : (s.channel j).valid = true) (hbad : bad (s.channel j) = true)
    (hlow : ∀ l < j, (s.channel l).valid = true → bad (s.channel l) = false) (f : Nat → Channel → Failure) :
    channelCheck s.channels bad f = some (f j (s.channel j)) := by
  have hzip : s.channels.zipIdx = (List.range s.srcLength).map fun l => (s.channel l, l) := by
    apply List.ext_getElem <;> simp [State.channels]
  obtain ⟨n, hn⟩ := Nat.exists_eq_add_of_lt hj
  rw [channelCheck, hzip, hn, Nat.add_assoc, List.range_add, List.map_append, List.findSome?_append,
    List.findSome?_eq_none_iff.mpr ?_, Option.none_or, Nat.add_comm n, List.range_add]
  · simp [hv, hbad]
  · simp only [List.mem_map, List.mem_range]
    rintro _ ⟨l, hl, rfl⟩
    cases hvl : (s.channel l).valid
    · simp
    · simp [hlow l hl hvl]

theorem channelCheck_eq_none {s : State} {bad : Channel → Bool}
    (h : ∀ j < s.srcLength, (s.channel j).valid = true → bad (s.channel j) = false) (f : Nat → Channel → Failure) :
    channelCheck s.channels bad f = none :=
  channelCheck_eq_none_iff.mpr (State.forall_channels.mpr h)

section
variable {s : State}

theorem firstFailure_mixChecks_of_tooMany (h : s.hw.maxChannels < s.srcLength) :
    firstFailure (mixChecks s) = some (.of .tooManyChannels s.srcLength s.hw.maxChannels) := by
  simp [mixChecks, h]

variable (hmax : s.srcLength ≤ s.hw.maxChannels)
include hmax

theorem firstFailure_mixChecks_of_table (h : ¬ InRange s s.srcStart (8 * s.srcLength)) :
    firstFailure (mixChecks s) = some (.of .bufferOutOfRange 2 s.srcStart) := by
  have hbad : s.outOfRange s.tableRegion = true := State.outOfRange_eq_true_iff.mpr h
  simp [mixChecks, Nat.not_lt.mpr hmax, hbad, rangeFailure]

variable (htable : InRange s s.srcStart (8 * s.srcLength))
include htable

/-- With the table readable the channel checks come first, then the destination's, then the overlaps. -/
theorem firstFailure_mixChecks_of_readable : firstFailure (mixChecks s) = firstFailure
    (channelCheck s.channels (fun c => c.len % 2 == 1) (fun j c => .of .invalidChannelLength j c.len) ::
      channelCheck s.channels (fun c => s.outOfRange c.region) (fun j c => rangeFailure (0x100 + j) c.start) ::
      (dstChecks s (mixNeed s) ++ [failIf (s.tableRegion.overlaps (s.dstRegion (mixNeed s))) (.of .regionOverlap 2 0),
        channelCheck s.channels (fun c => c.region.overlaps (s.dstRegion (mixNeed s)))
          (fun j _ => .of .regionOverlap (0x100 + j) 0)])) := by
  have hgood : s.outOfRange s.tableRegion = false := State.outOfRange_eq_false_iff.mpr htable
  simp [mixChecks, Nat.not_lt.mpr hmax, hgood]

theorem firstFailure_mixChecks_of_odd {j : Nat} (hj : j < s.srcLength) (hv : (s.channel j).valid = true)
    (hodd : (s.channel j).len % 2 = 1) (hlow : ∀ l < j, (s.channel l).valid = true → (s.channel l).len % 2 = 0) :
    firstFailure (mixChecks s) = some (.of .invalidChannelLength j (s.channel j).len) := by
  rw [firstFailure_mixChecks_of_readable hmax htable, channelCheck_eq_some hj hv (by simpa using hodd)
    (fun l hl hvl => by simp [hlow l hl hvl]), firstFailure_some]

variable (heven : ∀ j < s.srcLength, (s.channel j).valid = true → (s.channel j).len % 2 = 0)
include heven

theorem firstFailure_mixChecks_of_outOfRange {j : Nat} (hj : j < s.srcLength) (hv : (s.channel j).valid = true)
    (hbad : ¬ InRange s (s.channel j).start (s.channel j).len)
    (hlow : ∀ l < j, (s.channel l).valid = true → InRange s (s.channel l).start (s.channel l).len) :
    firstFailure (mixChecks s) = some (.of .bufferOutOfRange (0x100 + j) (s.channel j).start) := by
  rw [firstFailure_mixChecks_of_readable hmax htable, channelCheck_eq_none (fun l hl hvl => by simp [heven l hl hvl]),
    firstFailure_none, channelCheck_eq_some hj hv (State.outOfRange_eq_true_iff.mpr hbad)
    (fun l hl hvl => State.outOfRange_eq_false_iff.mpr (hlow l hl hvl)), firstFailure_some, rangeFailure]

variable (hrange : ∀ j < s.srcLength, (s.channel j).valid = true → InRange s (s.channel j).start (s.channel j).len)
include hrange

/-- With every channel sound the destination's checks come next. -/
theorem firstFailure_mixChecks_of_channels : firstFailure (mixChecks s) = firstFailure
    (dstChecks s (mixNeed s) ++ [failIf (s.tableRegion.overlaps (s.dstRegion (mixNeed s))) (.of .regionOverlap 2 0),
      channelCheck s.channels (fun c => c.region.overlaps (s.dstRegion (mixNeed s)))
        (fun j _ => .of .regionOverlap (0x100 + j) 0)]) := by
  rw [firstFailure_mixChecks_of_readable hmax htable, channelCheck_eq_none (fun l hl hvl => by simp [heven l hl hvl]),
    firstFailure_none, channelCheck_eq_none (fun l hl hvl => State.outOfRange_eq_false_iff.mpr (hrange l hl hvl)),
    firstFailure_none]

theorem firstFailure_mixChecks_of_tableOverlap (hfits : DstFits s (mixNeed s))
    (h : Overlap s.srcStart (8 * s.srcLength) s.dstStart (mixNeed s)) :
    firstFailure (mixChecks s) = some (.of .regionOverlap 2 0) := by
  have hov : s.tableRegion.overlaps (s.dstRegion (mixNeed s)) = true := Region.overlaps_eq_true_iff.mpr h
  rw [firstFailure_mixChecks_of_channels hmax htable heven hrange, firstFailure_dstChecks_of_fits hfits,
    failIf_of_true hov, firstFailure_some]

theorem firstFailure_mixChecks_of_channelOverlap (hfits : DstFits s (mixNeed s))
    (htab : ¬ Overlap s.srcStart (8 * s.srcLength) s.dstStart (mixNeed s)) {j : Nat} (hj : j < s.srcLength)
    (hv : (s.channel j).valid = true) (hov : Overlap (s.channel j).start (s.channel j).len s.dstStart (mixNeed s))
    (hlow : ∀ l < j, (s.channel l).valid = true →
      ¬ Overlap (s.channel l).start (s.channel l).len s.dstStart (mixNeed s)) :
    firstFailure (mixChecks s) = some (.of .regionOverlap (0x100 + j) 0) := by
  have hno : s.tableRegion.overlaps (s.dstRegion (mixNeed s)) = false := Region.overlaps_eq_false_iff.mpr htab
  rw [firstFailure_mixChecks_of_channels hmax htable heven hrange, firstFailure_dstChecks_of_fits hfits,
    failIf_of_false hno, firstFailure_none, channelCheck_eq_some hj hv (Region.overlaps_eq_true_iff.mpr hov)
    (fun l hl hvl => Region.overlaps_eq_false_iff.mpr (hlow l hl hvl)), firstFailure_some]

end

/-- Settles O21, check by check; `need` is the machine's own (`mixNeed_eq_mixOutputLength`). -/
theorem mixReportsTheFirstError : Obligations.MixReportsTheFirstError := by
  intro s need hneed
  obtain rfl : need = mixNeed s := hneed.trans (mixNeed_eq_mixOutputLength s).symm
  refine ⟨fun h => exec_mix_of_failure (firstFailure_mixChecks_of_tooMany h),
    fun hmax h => exec_mix_of_failure (firstFailure_mixChecks_of_table hmax h), fun hmax htable =>
    ⟨fun j hj hv hodd hlow => exec_mix_of_failure (firstFailure_mixChecks_of_odd hmax htable hj hv hodd hlow),
    fun heven => ⟨fun j hj hv hbad hlow =>
      exec_mix_of_failure (firstFailure_mixChecks_of_outOfRange hmax htable heven hj hv hbad hlow), fun hrange => ?_⟩⟩⟩
  have hchannels := firstFailure_mixChecks_of_channels hmax htable heven hrange
  exact ⟨fun h => exec_mix_of_failure (hchannels.trans (firstFailure_dstChecks_of_small h _)),
    fun hcap h => exec_mix_of_failure (hchannels.trans (firstFailure_dstChecks_of_outOfRange hcap h _)),
    fun hfits h => exec_mix_of_failure (firstFailure_mixChecks_of_tableOverlap hmax htable heven hrange hfits h),
    fun hfits htab j hj hv hov hlow =>
      exec_mix_of_failure (firstFailure_mixChecks_of_channelOverlap hmax htable heven hrange hfits htab hj hv hov hlow)⟩

end Sys2Proof.Machine
end

section
/-! SUPPORT. The turns of the RTP commands (43_rtp_rewriter.md, 44_codec_port.md): the checks and Acquire, the answer of
Acquire, and a frame's answer, one lemma per outcome. -/

namespace Sys2Proof.Machine

/-! ### The turn by position -/

section
variable {d : Dir} {law : Law} {fc : Int} {s : State}

theorem rtpNext_of_start (h : s.phase = .run .start) : rtpNext d law fc s = rtpStart d fc s := by
  simp [rtpNext, h]

theorem rtpNext_of_acquiring (h : s.phase = .run .acquiring) : rtpNext d law fc s = rtpAcquireTurn d law s := by
  simp [rtpNext, h]

theorem rtpNext_of_frame {i off : Nat} (h : s.phase = .run (.frame i off)) :
    rtpNext d law fc s = rtpFrameTurn d law fc i off s := by
  simp [rtpNext, h]

theorem rtpAcquireTurn_of_handle {h : Handle} (hp : s.port = .answered (.handle h)) :
    rtpAcquireTurn d law s = rtpAcquired d law h s := by
  simp [rtpAcquireTurn, hp]

theorem rtpAcquireTurn_of_fail (hp : s.port = .answered .fail) :
    rtpAcquireTurn d law s = s.takeAnswer.raiseError (.of .codecInitFailed 0 0) := by
  simp [rtpAcquireTurn, hp]

theorem rtpAcquireTurn_of_waiting {r : CodecRequest} (hp : s.port = .waiting r) : rtpAcquireTurn d law s = s := by
  simp [rtpAcquireTurn, hp]

theorem rtpFrameTurn_of_fail {i off : Nat} (hp : s.port = .answered .fail) :
    rtpFrameTurn d law fc i off s = s.takeAnswer.raiseError (.of .codecFrameFailed i 0) := by
  simp [rtpFrameTurn, hp]

theorem rtpFrameTurn_of_waiting {i off : Nat} {r : CodecRequest} (hp : s.port = .waiting r) :
    rtpFrameTurn d law fc i off s = s := by
  simp [rtpFrameTurn, hp]

theorem rtpFrameTurn_of_output {i off : Nat} {c : Context} {a : CodecAnswer} {out : List Byte} (hc : s.ctx = some c)
    (hp : s.port = .answered a) (ho : rtpFrameOutput law d a = some out) :
    rtpFrameTurn d law fc i off s = rtpFrameDone d law fc c i off out s := by
  cases a with
  | fail => cases d <;> simp [rtpFrameOutput] at ho
  | handle _ | pcm _ | bits _ => simp [rtpFrameTurn, hc, hp, ho]

end

/-- Settles O24: at both holds the turn waits for the answer. -/
theorem rtpCommandsHoldUntilTheAnswer : Obligations.RtpCommandsHoldUntilTheAnswer := by
  intro s i d law fc p r hi hphase hne hport
  rw [exec_of_rtpCommand hi]
  refine congrArg _ ?_
  cases p with
  | start => exact absurd rfl hne
  | acquiring => rw [rtpNext_of_acquiring hphase, rtpAcquireTurn_of_waiting hport]
  | frame n off => rw [rtpNext_of_frame hphase, rtpFrameTurn_of_waiting hport]

/-! ### The first turn (R89, R105) -/

/-- Settles O22: with every check passed the first turn issues Acquire, or waits for an abandoned answer (log 10). -/
theorem rtpCommandsAcquireAfterTheChecks : Obligations.RtpCommandsAcquireAfterTheChecks := by
  intro s i d law fc hi hphase hready
  rw [exec_of_rtpCommand hi, rtpNext_of_start hphase]
  exact ⟨fun ha => by rw [rtpStart_of_ready hready ha]; rfl, fun ha => by rw [rtpStart_of_abandoned hready ha]⟩

theorem exec_rtp_of_failure {i : Instr} {d : Dir} {law : Law} {fc : Int} {s : State} {f : Failure}
    (hi : rtpCommand i = some (d, law, fc)) (hphase : s.phase = .run .start)
    (h : firstFailure (rtpChecks d fc s) = some f) : exec i s = .next (s.raiseError f) := by
  rw [exec_of_rtpCommand hi, rtpNext_of_start hphase, rtpStart, h]

section
variable {d : Dir} {fc : Int} {s : State} (hpos : 0 < fc)
include hpos

theorem firstFailure_rtpChecks_of_src (h : ¬ InRange s s.srcStart s.srcLength) :
    firstFailure (rtpChecks d fc s) = some (.of .bufferOutOfRange 0 s.srcStart) := by
  simp [rtpChecks, Int.not_le.mpr hpos, srcCheck_of_outOfRange h]

variable (hsrc : InRange s s.srcStart s.srcLength)
include hsrc

theorem firstFailure_rtpChecks_of_short (h : s.srcLength < rtpRequired d fc) :
    firstFailure (rtpChecks d fc s) = some (.of .packetTooShort (rtpRequired d fc) s.srcLength) := by
  simp [rtpChecks, Int.not_le.mpr hpos, srcCheck_of_inRange hsrc, h]

variable (hlen : rtpRequired d fc ≤ s.srcLength)
include hlen

theorem firstFailure_rtpChecks_of_version (h : s.rtpVersionField ≠ 2) :
    firstFailure (rtpChecks d fc s) = some (.of .invalidVersion s.rtpVersionField 0) := by
  have hbad : (s.rtpVersionField != rtpVersion) = true := bne_iff_ne.mpr h
  simp [rtpChecks, Int.not_le.mpr hpos, srcCheck_of_inRange hsrc, Nat.not_lt.mpr hlen, hbad]

variable (hver : s.rtpVersionField = 2)
include hver

theorem firstFailure_rtpChecks_of_type (hd : d = .dec) (h : s.rtpTypeField ≠ 18) :
    firstFailure (rtpChecks d fc s) = some (.of .payloadTypeMismatch 18 s.rtpTypeField) := by
  subst hd
  have hbad : (s.rtpTypeField != ptG729) = true := bne_iff_ne.mpr h
  show firstFailure (rtpChecks .dec fc s) = some (.of .payloadTypeMismatch ptG729 s.rtpTypeField)
  simp [rtpChecks, Int.not_le.mpr hpos, srcCheck_of_inRange hsrc, Nat.not_lt.mpr hlen, rtpVersion, hver, hbad]

/-- Behind the packet's own checks stand the destination's and the overlap. -/
theorem firstFailure_rtpChecks_of_packet (htype : d = .dec → s.rtpTypeField = 18) : firstFailure (rtpChecks d fc s) =
    firstFailure (dstChecks s (rtpNeed d fc) ++ [srcOverlapCheck s (rtpNeed d fc)]) := by
  have hpt : (d == .dec && s.rtpTypeField != ptG729) = false := by
    cases d <;> simp_all [ptG729]
  simp [rtpChecks, Int.not_le.mpr hpos, srcCheck_of_inRange hsrc, Nat.not_lt.mpr hlen, rtpVersion, hver, hpt]

end

/-- Settles O23, check by check. -/
theorem rtpCommandsReportTheFirstError : Obligations.RtpCommandsReportTheFirstError := by
  intro s i d law fc hi hphase req need hlens
  obtain ⟨rfl, rfl⟩ : req = rtpRequired d fc ∧ need = rtpNeed d fc := by
    rcases hlens with ⟨rfl, rfl, rfl⟩ | ⟨rfl, rfl, rfl⟩ <;> exact ⟨rfl, rfl⟩
  have report := fun {f} => exec_rtp_of_failure (f := f) hi hphase
  refine ⟨exec_rtp_of_nonpos hi hphase, fun hpos h => report (firstFailure_rtpChecks_of_src hpos h), fun hpos hsrc =>
    ⟨fun h => report (firstFailure_rtpChecks_of_short hpos hsrc h),
    fun hlen h => report (firstFailure_rtpChecks_of_version hpos hsrc hlen h),
    fun hlen hver hd h => report (firstFailure_rtpChecks_of_type hpos hsrc hlen hver hd h), fun hlen hver htype => ?_⟩⟩
  have hpacket := firstFailure_rtpChecks_of_packet hpos hsrc hlen hver htype
  refine ⟨fun h => report (hpacket.trans (firstFailure_dstChecks_of_small h _)),
    fun hcap h => report (hpacket.trans (firstFailure_dstChecks_of_outOfRange hcap h _)), fun hfits hov => report ?_⟩
  rw [hpacket, firstFailure_dstChecks_of_fits hfits, srcOverlapCheck_of_overlap hov, firstFailure_some]

/-! ### The answer of Acquire (R81, R91) -/

/-- The answered header stands at latch.D_ADDR. -/
theorem byte_rtpAcquired (d : Dir) (law : Law) (h : Handle) (s : State) {k : Nat} (hk : k < 12) :
    (rtpAcquired d law h s).byte (s.dstStart + k) = (s.rtpHeader (ptOut d law))[k]'(by simpa using hk) :=
  State.byte_writeBytes_inside { s.takeAnswer with ctx := some ⟨d, h⟩ } s.dstStart (bs := s.rtpHeader (ptOut d law))
    (by simpa using hk)

/-- But for byte 1 the header is the input's (R81). -/
theorem getElem_rtpHeader (s : State) (pt : Nat) {k : Nat} (hk : k < (s.rtpHeader pt).length) (h1 : k ≠ 1) :
    (s.rtpHeader pt)[k] = s.byte (s.srcStart + k) := by
  match k, h1 with
  | 0, _ => rfl
  | k + 2, _ =>
    simp only [State.rtpHeader, List.getElem_cons_succ, State.getElem_bytes]
    congr 1
    omega

theorem rtpHeader_one (s : State) (pt : Nat) :
    (s.rtpHeader pt)[1]'(by simp) = (s.byte (s.srcStart + 1) &&& 0x80) ||| BitVec.ofNat 8 pt := rfl

/-- Settles O25. -/
theorem acquireAnswerWritesTheHeader : Obligations.AcquireAnswerWritesTheHeader := by
  intro s i d law fc h hi hphase hport
  refine ⟨rtpAcquired d law h s, ?_, rfl, rfl, fun k hk h1 => ?_, ?_, (rtpAcquired_bufWritten d law h s).bytesKeptOutside,
    rfl, rfl, rfl, rfl, rfl, rtpAcquired_turnFrame d law h s⟩
  · rw [exec_of_rtpCommand hi, rtpNext_of_acquiring hphase, rtpAcquireTurn_of_handle hport]
  · rw [byte_rtpAcquired d law h s hk, getElem_rtpHeader s _ _ h1]
  · rw [byte_rtpAcquired d law h s (by decide), rtpHeader_one]
    cases d <;> cases law <;> rfl

/-- Settles O26: no context is held yet, so nothing is released. -/
theorem acquireFailureReportsCodecInitFailed : Obligations.AcquireFailureReportsCodecInitFailed := by
  intro s i d law fc hi hphase hctx hport
  rw [exec_of_rtpCommand hi, rtpNext_of_acquiring hphase, rtpAcquireTurn_of_fail hport,
    State.raiseError_of_ctx_none (s := s.takeAnswer) hctx]
  rfl

/-! ### A frame's answer (R84, R86, R96) -/

/-- A held context is released before the error is reported (R103). -/
theorem State.raiseError_of_ctx_some {s : State} {c : Context} (h : s.ctx = some c) (f : Failure) :
    s.raiseError f = { s with
      ctx := none, codecLog := s.codecLog ++ [.release c.handle],
      csr := s.csr.completed f.code 0 f.info0 f.info1, phase := .idle } := by
  simp [State.raiseError, State.releaseCtx_of_some h]

/-- Settles O31. -/
theorem frameFailureReleasesAndReports : Obligations.FrameFailureReleasesAndReports := by
  intro s i d law fc h n off hi hphase hctx hport
  rw [exec_of_rtpCommand hi, rtpNext_of_frame hphase, rtpFrameTurn_of_fail hport,
    State.raiseError_of_ctx_some (s := s.takeAnswer) hctx]
  rfl

section
variable {d : Dir} {law : Law} {fc : Int} {c : Context} {i off : Nat} {out : List Byte} {s : State}

theorem rtpFrameDone_of_next (h : i + 1 < fc.toNat) : rtpFrameDone d law fc c i off out s =
    rtpSend d law c.handle (i + 1) (off + out.length) (s.takeAnswer.writeBytes (s.dstStart + off) out) := by
  simp [rtpFrameDone, h]

theorem rtpFrameDone_of_last (h : i + 1 = fc.toNat) : rtpFrameDone d law fc c i off out s =
    (s.takeAnswer.writeBytes (s.dstStart + off) out).releaseCtx.complete (off + out.length) := by
  simp [rtpFrameDone, h]

/-- The answer's bytes stand at the frame's offset, whatever follows. -/
theorem byte_rtpFrameDone (k : Nat) (hk : k < out.length) :
    (rtpFrameDone d law fc c i off out s).byte (s.dstStart + off + k) = out[k] := by
  have hwrite := State.byte_writeBytes_inside s.takeAnswer (s.dstStart + off) hk
  unfold rtpFrameDone
  split
  · exact hwrite
  · rw [State.byte_complete, State.byte_releaseCtx, hwrite]

/-- A frame that is not the last: the next one is sent, read from BUF with the output in it. -/
theorem rtpFrameDone_next_spec {t : State} (h : i + 1 < fc.toNat) (ht : t = rtpFrameDone d law fc c i off out s) :
    t.phase = .run (.frame (i + 1) (off + out.length)) ∧ t.port = .waiting (rtpRequest d law c.handle (i + 1) t) ∧
      t.codecLog = s.codecLog ++ [rtpRequest d law c.handle (i + 1) t] ∧ t.ctx = s.ctx ∧ t.csr = s.csr ∧ t.acc = s.acc ∧
      t.draws = s.draws ∧ TurnFrame s t := by
  have hframe := rtpFrameDone_turnFrame d law fc c i off out s
  rw [← ht] at hframe
  rw [rtpFrameDone_of_next h] at ht
  subst ht
  exact ⟨rfl, rfl, rfl, rfl, rfl, rfl, rfl, hframe⟩

/-- The last frame: the context is released by one request and the command completes. -/
theorem rtpFrameDone_last_spec {t : State} (hctx : s.ctx = some c) (h : i + 1 = fc.toNat)
    (ht : t = rtpFrameDone d law fc c i off out s) :
    Succeeded t (off + out.length) ∧ t.ctx = none ∧ t.port = .quiet ∧ t.codecLog = s.codecLog ++ [.release c.handle] ∧
      t.acc = s.acc ∧ t.draws = s.draws ∧ TurnFrame s t := by
  have hframe := rtpFrameDone_turnFrame d law fc c i off out s
  rw [← ht] at hframe
  rw [rtpFrameDone_of_last h, State.releaseCtx_of_some (s := s.takeAnswer.writeBytes _ out) hctx] at ht
  subst ht
  exact ⟨⟨rfl, rfl, rfl, rfl, rfl, rfl, rfl⟩, rfl, rfl, rfl, rfl, rfl, hframe⟩

theorem exec_frame {cmd : Instr} {a : CodecAnswer} (hi : rtpCommand cmd = some (d, law, fc))
    (hphase : s.phase = .run (.frame i off)) (hctx : s.ctx = some c) (hport : s.port = .answered a)
    (hout : rtpFrameOutput law d a = some out) : exec cmd s = .next (rtpFrameDone d law fc c i off out s) := by
  rw [exec_of_rtpCommand hi, rtpNext_of_frame hphase, rtpFrameTurn_of_output hctx hport hout]

end

/-- The request for a frame, read where the latch says (R88, R92, R93). -/
theorem rtpRequest_dec {s t : State} (hl : t.latch = s.latch) (law : Law) (h : Handle) (i : Nat) :
    rtpRequest .dec law h i t = .decode h (t.bytes (s.srcStart + 12 + 10 * i) 10) := by
  rw [State.srcStart, ← hl]; rfl

theorem rtpRequest_enc {s t : State} (hl : t.latch = s.latch) (law : Law) (h : Handle) (i : Nat) :
    rtpRequest .enc law h i t = .encode h ((t.bytes (s.srcStart + 12 + 80 * i) 80).map (lawDec law)) := by
  rw [State.srcStart, ← hl]; rfl

/-- The companded samples of a decoded frame. -/
theorem length_compandedFrame (law : Law) (r : Vector Sample 80) : (r.toList.map (lawEnc law)).length = 80 := by simp

theorem byte_compandedFrame {law : Law} {fc : Int} {c : Context} {n off : Nat} {s : State} (r : Vector Sample 80) (k : Nat)
    (hk : k < 80) : (rtpFrameDone .dec law fc c n off (r.toList.map (lawEnc law)) s).byte (s.dstStart + off + k) =
      lawEnc law r[k] := by
  rw [byte_rtpFrameDone k (by simpa using hk)]
  simp

/-- Settles O27. -/
theorem rtpdFrameIsCompandedAndTheNextSent : Obligations.RtpdFrameIsCompandedAndTheNextSent := by
  intro s i law fc h n off r hi hphase hctx hport hnext
  obtain ⟨hp, hrest⟩ := rtpFrameDone_next_spec (d := .dec) (law := law) (c := ⟨.dec, h⟩) (off := off)
    (out := r.toList.map (lawEnc law)) (s := s) hnext rfl
  have hkept := (rtpFrameDone_bufWritten .dec law fc ⟨.dec, h⟩ n off (r.toList.map (lawEnc law)) s).bytesKeptOutside
  rw [length_compandedFrame] at hp hkept
  rw [rtpRequest_dec (rtpFrameDone_turnFrame ..).latch] at hrest
  exact ⟨_, exec_frame hi hphase hctx hport rfl, byte_compandedFrame r, hkept, hp, hrest⟩

/-- Settles O28. -/
theorem rtpdCompletesOnTheLastFrame : Obligations.RtpdCompletesOnTheLastFrame := by
  intro s i law fc h n r hi hphase hctx hport hlast
  obtain ⟨hdone, hrest⟩ := rtpFrameDone_last_spec (d := .dec) (law := law) (off := 12 + 80 * n)
    (out := r.toList.map (lawEnc law)) hctx hlast rfl
  have hkept := (rtpFrameDone_bufWritten .dec law fc ⟨.dec, h⟩ n (12 + 80 * n) (r.toList.map (lawEnc law)) s).bytesKeptOutside
  rw [length_compandedFrame] at hdone hkept
  rw [show 12 + 80 * n + 80 = 12 + 80 * fc.toNat by omega] at hdone
  simp only [← Nat.add_assoc] at hkept
  refine ⟨_, exec_frame hi hphase hctx hport rfl, fun k hk => ?_, hkept, hdone, hrest⟩
  rw [← byte_compandedFrame r k hk, ← Nat.add_assoc]

/-- Settles O29. -/
theorem rtpeFrameIsAppendedAndTheNextSent : Obligations.RtpeFrameIsAppendedAndTheNextSent := by
  intro s i law fc h n off r hi hphase hctx hport hnext
  obtain ⟨hp, hrest⟩ := rtpFrameDone_next_spec (d := .enc) (law := law) (c := ⟨.enc, h⟩) (off := off) (out := r.bytes)
    (s := s) hnext rfl
  rw [rtpRequest_enc (rtpFrameDone_turnFrame ..).latch] at hrest
  exact ⟨_, exec_frame hi hphase hctx hport rfl, byte_rtpFrameDone,
    (rtpFrameDone_bufWritten .enc law fc ⟨.enc, h⟩ n off r.bytes s).bytesKeptOutside, length_codecFrame r, hp, hrest⟩

/-- Settles O30. -/
theorem rtpeCompletesOnTheLastFrame : Obligations.RtpeCompletesOnTheLastFrame := by
  intro s i law fc h n off r hi hphase hctx hport hlast
  exact ⟨_, exec_frame hi hphase hctx hport rfl, byte_rtpFrameDone,
    (rtpFrameDone_bufWritten .enc law fc ⟨.enc, h⟩ n off r.bytes s).bytesKeptOutside,
    rtpFrameDone_last_spec hctx hlast rfl⟩

end Sys2Proof.Machine
end

section
/-! SUPPORT. The host port (10_state.md R22–R35, 20_memory.md R40–R49): the CSR map, STATUS and ID bit by bit, BUF accesses,
which writes disturb a running command, and who changes the latch. -/

namespace Sys2Proof.Machine

/-! ### The register words, bit by bit (R24, R26) -/

theorem getLsbD_idWord (hw : Config) (k : Nat) : (idWord hw).getLsbD k =
    if k < 8 then hw.idRev.getLsbD k else if k = 8 then hw.alawRtp else if k = 9 then hw.mixCountEmpty
    else if k < 16 then false else (BitVec.ofNat 16 (hw.maxChannels - 1)).getLsbD (k - 16) := by
  simp only [idWord, BitVec.getLsbD_append]
  split_ifs <;> grind

theorem getLsbD_statusWord (c : Csr) (k : Nat) : (statusWord c).getLsbD k =
    if k = 0 then c.busy else if k = 1 then c.done else if k = 2 then c.rej
    else if k < 8 then false else if k < 16 then c.err.getLsbD (k - 8) else false := by
  simp only [statusWord, BitVec.getLsbD_append]
  split_ifs <;> grind

/-- A field of a word is what its bits say. -/
theorem extractLsb'_eq_of_bits {n : Nat} {w : Word} {start : Nat} {f : BitVec n}
    (h : ∀ k < n, w.getLsbD (start + k) = f.getLsbD k) : w.extractLsb' start n = f := by
  apply BitVec.eq_of_getLsbD_eq
  intro k hk
  simpa [hk] using h k hk

/-! ### The CSR map (R22, R23) -/

/-- No register stands from 0x30 on: RAZ/WI (R22). -/
theorem State.readCsr_of_reserved (s : State) {off : Nat} (h : 0x30 ≤ off) : s.readCsr off = 0 := by
  unfold State.readCsr
  split
  case h_13 => rfl
  all_goals omega

theorem State.writeCsr_of_reserved (s : State) {off : Nat} (h : 0x30 ≤ off) (v : Word) : s.writeCsr off v = s := by
  unfold State.writeCsr
  split
  case h_8 => rfl
  all_goals omega

theorem State.writeCsr_of_readOnly (s : State) {off : Nat} (h : off ∈ [0x00, 0x20, 0x24, 0x28, 0x2C]) (v : Word) :
    s.writeCsr off v = s := by
  simp only [List.mem_cons, List.not_mem_nil, or_false] at h
  rcases h with rfl | rfl | rfl | rfl | rfl <;> rfl

/-- Settles O40: the map is `State.readCsr` and `State.writeCsr`; ID is read field by field. -/
theorem csrReadsFollowTheMap : Obligations.CsrReadsFollowTheMap := by
  intro s hr
  refine ⟨fun off v hmem => ?map, ⟨idWord s.hw, hostTurn_read_csr hr (by decide) (by decide), ?id⟩,
    hostTurn_read_csr hr (by decide) (by decide), fun off hmem v => ?readOnly, fun off hlo hhi hal => ⟨?read, fun v => ?write⟩⟩
  case map =>
    simp only [List.mem_cons, Prod.mk.injEq, List.not_mem_nil, or_false] at hmem
    rcases hmem with ⟨rfl, rfl⟩ | ⟨rfl, rfl⟩ | ⟨rfl, rfl⟩ | ⟨rfl, rfl⟩ | ⟨rfl, rfl⟩ | ⟨rfl, rfl⟩ | ⟨rfl, rfl⟩ |
      ⟨rfl, rfl⟩ | ⟨rfl, rfl⟩ | ⟨rfl, rfl⟩ <;> exact hostTurn_read_csr hr (by decide) (by decide)
  case id =>
    refine ⟨extractLsb'_eq_of_bits fun k hk => ?_, getLsbD_idWord s.hw 8, getLsbD_idWord s.hw 9,
      extractLsb'_eq_of_bits fun k hk => ?_, extractLsb'_eq_of_bits fun k hk => ?_, fun h => by rw [h]; rfl⟩
    all_goals rw [getLsbD_idWord]
    · simp [hk]
    · simp [show ¬ 10 + k < 8 by omega, show 10 + k ≠ 8 by omega, show 10 + k ≠ 9 by omega, show 10 + k < 16 by omega]
    · simp [show ¬ 16 + k < 8 by omega, show 16 + k ≠ 8 by omega, show 16 + k ≠ 9 by omega]
  case readOnly =>
    have hoff : off < 0x10000 ∧ off % 4 = 0 := by
      simp only [List.mem_cons, List.not_mem_nil, or_false] at hmem
      omega
    rw [hostTurn_write_csr hr hoff.1 hoff.2, State.writeCsr_of_readOnly s hmem]
  case read => rw [hostTurn_read_csr hr hhi hal, State.readCsr_of_reserved s hlo]
  case write => rw [hostTurn_write_csr hr hhi hal, State.writeCsr_of_reserved s hlo]

/-- Settles O41. -/
theorem statusReadLayout : Obligations.StatusReadLayout := by
  intro s hr
  refine ⟨statusWord s.csr, hostTurn_read_csr hr (by decide) (by decide), rfl, getLsbD_statusWord s.csr 0,
    getLsbD_statusWord s.csr 1, getLsbD_statusWord s.csr 2, ?_, ?_, ?_⟩ <;>
    refine extractLsb'_eq_of_bits fun k hk => ?_ <;> rw [getLsbD_statusWord]
  · simp [show 3 + k ≠ 1 by omega, show 3 + k ≠ 2 by omega, show 3 + k < 8 by omega]
  · simp [show 8 + k ≠ 1 by omega, show 8 + k ≠ 2 by omega, show 8 + k < 16 by omega]
  · simp [show 16 + k ≠ 1 by omega, show 16 + k ≠ 2 by omega, show ¬ 16 + k < 8 by omega]

/-- Where a bit is written 1 the flag is cleared (R26). -/
theorem writeStatus_eq (v : Word) (c : Csr) : writeStatus v c = { c with
    done := if v.getLsbD 1 then false else c.done, rej := if v.getLsbD 2 then false else c.rej } := by
  have hclear : ∀ flag one : Bool, (flag && !one) = if one then false else flag := by decide
  simp only [writeStatus, hclear]

/-- Settles O42. -/
theorem statusWriteOneClears : Obligations.StatusWriteOneClears := by
  intro s v hr
  rw [hostTurn_write_csr hr (by decide) (by decide), State.writeCsr, writeStatus_eq]

/-- Settles O44: each of the four writes is its register's own. -/
theorem operandWritesLeaveTheLatch : Obligations.OperandWritesLeaveTheLatch := fun s v hr =>
  ⟨hostTurn_write_csr hr (by decide) (by decide) v, hostTurn_write_csr hr (by decide) (by decide) v,
    hostTurn_write_csr hr (by decide) (by decide) v, hostTurn_write_csr hr (by decide) (by decide) v⟩

/-! ### BUF accesses (20_memory.md R40, R43) -/

section
variable {s : State} {w : Width} {off : Nat} (hr : s.inReset = false) (hcsr : 0x10000 ≤ off) (hbase : s.hw.bufBase ≤ off)
  (htop : off + w.bytes ≤ s.hw.bufBase + s.hw.memBytes) (hal : off % w.bytes = 0)
include hr hcsr hbase htop hal

theorem hostTurn_write_buf (v : Word) : hostTurn (.write w off v) s =
    { s.hostWrite w (off - s.hw.bufBase) v with busReply := some .written } := by
  have htarget := hostTarget_eq_buf_iff.mpr ⟨hcsr, hbase, htop, hal, rfl⟩
  simp [hostTurn, hr, htarget]

theorem hostTurn_read_buf : hostTurn (.read w off) s =
    { s with busReply := some (.data (s.hostRead w (off - s.hw.bufBase))), draws := s.draws + 1 } := by
  have htarget := hostTarget_eq_buf_iff.mpr ⟨hcsr, hbase, htop, hal, rfl⟩
  simp [hostTurn, hr, htarget]

end

theorem getElem_hostBytes (w : Width) (v : Word) {k : Nat} (hk : k < (hostBytes w v).length) :
    (hostBytes w v)[k] = v.extractLsb' (8 * k) 8 := by
  rw [length_hostBytes] at hk
  cases w <;> simp only [Width.bytes] at hk <;> interval_cases k <;> rfl

/-- Settles O46. -/
theorem hostBufWriteStoresLittleEndian : Obligations.HostBufWriteStoresLittleEndian := by
  intro s w off v hr hcsr hbase htop hal
  rw [hostTurn_write_buf hr hcsr hbase htop hal]
  refine ⟨fun k hk => ?_, (hostWrite_bufWritten s w _ v).bytesKeptOutside, rfl, rfl, rfl, rfl⟩
  have hk : k < (hostBytes w v).length := by simpa using hk
  rw [← getElem_hostBytes w v hk]
  exact State.byte_writeBytes_inside s _ hk

/-- Byte k of a read (R40). -/
theorem extractLsb'_hostRead (s : State) (w : Width) (a : Nat) {k : Nat} (hk : k < w.bytes) :
    (s.hostRead w a).extractLsb' (8 * k) 8 = s.hostByte (a + k) := by
  refine extractLsb'_eq_of_bits fun j hj => ?_
  cases w <;> simp only [Width.bytes] at hk <;> interval_cases k <;>
    simp only [State.hostRead, BitVec.getLsbD_setWidth, BitVec.getLsbD_append] <;> grind

theorem hostRead_toNat_lt (s : State) (w : Width) (a : Nat) : (s.hostRead w a).toNat < 2 ^ (8 * w.bytes) := by
  cases w with
  | w8 =>
    rw [State.hostRead, BitVec.toNat_setWidth]
    exact (Nat.mod_le _ _).trans_lt (s.hostByte a).isLt
  | w16 =>
    rw [State.hostRead, BitVec.toNat_setWidth]
    exact (Nat.mod_le _ _).trans_lt (s.hostByte (a + 1) ++ s.hostByte a).isLt
  | w32 => exact (s.hostRead .w32 a).isLt

/-- A settled byte is read as it stands in BUF (R49). -/
theorem hostByte_of_settled {s : State} {a : Nat} (h : s.csr.busy = true → s.unsettled a = false) :
    s.hostByte a = s.byte a := by
  unfold State.hostByte
  split
  next hfree =>
    obtain ⟨hb, hu⟩ := Bool.and_eq_true_iff.mp hfree
    rw [h hb] at hu; cases hu
  next => rfl

theorem unsettled_eq_false {s : State} {a : Nat} (hdst : s.runningDst.covers a = false)
    (hspan : s.tainted = true → a < s.dstStart ∨ s.dstStart + s.dstCapacity ≤ a) : s.unsettled a = false := by
  rw [State.unsettled, hdst, Bool.false_or, Bool.and_eq_false_imp]
  intro ht
  have hout := hspan ht
  rw [Region.covers, Bool.and_eq_false_imp]
  intro hle
  have hle : s.dstStart ≤ a := of_decide_eq_true hle
  exact decide_eq_false (show ¬ a < s.dstStart + s.dstCapacity by omega)

/-- Settles O47. -/
theorem hostBufReadReturnsLittleEndian : Obligations.HostBufReadReturnsLittleEndian := by
  intro s w off hr hcsr hbase htop hal hfree
  refine ⟨_, hostTurn_read_buf hr hcsr hbase htop hal, fun k hk => ?_, hostRead_toNat_lt s w _⟩
  rw [extractLsb'_hostRead s w _ hk]
  refine hostByte_of_settled fun hb => ?_
  obtain ⟨hdst, hspan⟩ := hfree hb k hk
  exact unsettled_eq_false hdst hspan

/-! ### Which writes disturb a running command (R49, R110) -/

theorem State.hostWrite_tainted (s : State) (w : Width) (a : Nat) (v : Word) :
    (s.hostWrite w a v).tainted = (s.tainted || s.interferes a w.bytes) := rfl

/-- A write meets a region of the running command, its destination or one it reads. -/
theorem interferes_iff {s : State} {i : Instr} (hb : s.csr.busy = true) (hdec : decode s.hw s.latch.opWord = .ok i)
    (a n : Nat) : s.interferes a n = true ↔
      Overlap s.dstStart (needOf s i) a n ∨ ∃ r ∈ readRegions s i, Overlap r.start r.len a n := by
  simp only [State.interferes, hb, Bool.true_and, State.runningRegions, hdec, List.any_cons, Bool.or_eq_true, List.any_eq_true]
  exact or_congr Region.overlaps_eq_true_iff (exists_congr fun r => and_congr_right fun _ => Region.overlaps_eq_true_iff)

/-- The destination's length and the one source region of every command but MIX (log 11). -/
theorem regions_of_not_mix {s : State} {i : Instr} {need : Nat}
    (h : ((i = .cencU ∨ i = .cencA) ∧ need = s.srcLength / 2) ∨ ((i = .cdecU ∨ i = .cdecA) ∧ need = 2 * s.srcLength) ∨
      ((i = .h2n ∨ i = .n2h) ∧ need = s.srcLength) ∨
      (∃ law fc, rtpCommand i = some (.dec, law, fc) ∧ need = 12 + 80 * fc.toNat) ∨
      (∃ law fc, rtpCommand i = some (.enc, law, fc) ∧ need = 12 + 10 * fc.toNat)) :
    needOf s i = need ∧ readRegions s i = [s.srcRegion] := by
  rcases h with ⟨rfl | rfl, rfl⟩ | ⟨rfl | rfl, rfl⟩ | ⟨rfl | rfl, rfl⟩ | ⟨law, fc, hi, rfl⟩ | ⟨law, fc, hi, rfl⟩
  case inr.inr.inr.inl | inr.inr.inr.inr =>
    cases i <;> simp only [rtpCommand, Option.some.injEq, Prod.mk.injEq, reduceCtorEq, false_and, true_and] at hi <;>
      obtain ⟨-, rfl⟩ := hi <;> exact ⟨rfl, rfl⟩
  all_goals exact ⟨rfl, rfl⟩

theorem tableReadable_iff {s : State} : tableReadable s = true ↔
    s.srcLength ≤ s.hw.maxChannels ∧ InRange s s.srcStart (8 * s.srcLength) := by
  rw [tableReadable, Bool.and_eq_true, decide_eq_true_eq, Bool.not_eq_true', State.tableRegion,
    State.outOfRange_eq_false_iff]

/-- With its table readable MIX reads the table and every valid channel. -/
theorem exists_mixReads_iff {s : State} (h : tableReadable s = true) {p : Region → Prop} :
    (∃ r ∈ readRegions s .mix, p r) ↔
      p s.tableRegion ∨ ∃ j < s.srcLength, (s.channel j).valid = true ∧ p (s.channel j).region := by
  simp only [readRegions, mixReads, h, if_true, List.mem_cons, exists_eq_or_imp, List.mem_map, List.mem_filter, State.channels,
    List.mem_range]
  refine or_congr Iff.rfl ⟨?_, ?_⟩
  · rintro ⟨_, ⟨_, ⟨⟨j, hj, rfl⟩, hv⟩, rfl⟩, hp⟩
    exact ⟨j, hj, hv, hp⟩
  · rintro ⟨j, hj, hv, hp⟩
    exact ⟨_, ⟨_, ⟨⟨j, hj, rfl⟩, hv⟩, rfl⟩, hp⟩

/-- Settles O48: taint is interference, which is overlap with the running command's regions. -/
theorem hostWriteTaintsExactlyInsideRegions : Obligations.HostWriteTaintsExactlyInsideRegions := by
  intro s w off a v hr hcsr hbase htop hal ha ht
  have htaint : (hostTurn (.write w off v) s).tainted = s.interferes a w.bytes := by
    rw [hostTurn_write_buf hr hcsr hbase htop hal, ← ha]
    exact (s.hostWrite_tainted w a v).trans (by rw [ht, Bool.false_or])
  rw [htaint]
  refine ⟨fun hb => by simp [State.interferes, hb], fun e he => by simp [State.interferes, State.runningRegions, he],
    fun hb i hdec => ?_⟩
  rw [interferes_iff hb hdec]
  refine ⟨fun need hneed => ?buffer, fun hi hmax htable => ?mix, fun hi hbad => ?unreadable⟩
  case buffer =>
    obtain ⟨hn, hreads⟩ := regions_of_not_mix hneed
    rw [hn, hreads]
    simp [State.srcRegion]
  case mix =>
    subst hi
    have hread : tableReadable s = true := tableReadable_iff.mpr ⟨hmax, htable⟩
    rw [exists_mixReads_iff hread, needOf, if_pos hread, mixNeed_eq_mixOutputLength]
    rfl
  case unreadable =>
    subst hi
    have hread : tableReadable s = false := by
      rw [← Bool.not_eq_true, tableReadable_iff]; exact hbad
    simp [needOf, readRegions, mixReads, hread, State.tableRegion]

/-! ### The operand latch (R35) -/

theorem settle_latch (s : State) : (settle s).latch = s.latch := by
  rcases settle_cases s with e | ⟨_, _, e⟩ <;> rw [e]
  rfl

theorem engineTurn_latch {s t : State} (h : engineTurn s = .next t) : t.latch = s.latch := by
  rcases engineTurn_cases h with rfl | ⟨_, _, _, _, _, rfl⟩ | ⟨_, i, u, _, _, _, hu, rfl⟩
  · rfl
  · rw [settle_latch, State.illegal, State.raiseError_latch]
  · rw [settle_latch, (everyCommandKeepsTheTurnFrame s u i hu).latch]

theorem State.writeCsr_latch_cases (s : State) (off : Nat) (v : Word) :
    (s.writeCsr off v).latch = s.latch ∨ off = 0x0C ∧ s.csr.busy = false := by
  unfold State.writeCsr
  split
  case h_3 =>
    cases hb : s.csr.busy
    · exact .inr ⟨rfl, rfl⟩
    · rw [State.writeCmd_of_busy hb]; exact .inl rfl
  all_goals exact .inl rfl

theorem hostTurn_latch_cases (x : HostTxn) (s : State) : (hostTurn x s).latch = s.latch ∨
    ∃ w, x = .write .w32 0x0C w ∧ s.csr.busy = false ∧ s.inReset = false := by
  unfold hostTurn
  split
  · exact .inl rfl
  next hr =>
  cases x with
  | read w off => left; dsimp only; split <;> rfl
  | write w off v =>
    dsimp only
    split
    next o ho =>
      obtain ⟨rfl, rfl⟩ := eq_of_hostTarget_eq_csr ho
      rcases s.writeCsr_latch_cases o v with hl | ⟨rfl, hb⟩
      · exact .inl hl
      · exact .inr ⟨v, rfl, hb, by simpa using hr⟩
    next => exact .inl rfl
    next => exact .inl rfl

/-- Settles O39, agent by agent. -/
theorem latchChangesOnlyAtAcceptance : Obligations.LatchChangesOnlyAtAcceptance := by
  intro s t hstep
  rcases step_cases hstep with ⟨_, hturn⟩ | ⟨e, rest, hi, hturn⟩
  · exact .inl (engineTurn_latch hturn)
  cases e with
  | engine => exact .inl (engineTurn_latch (s := { s with inputs := rest }) hturn)
  | host x =>
    subst hturn
    rcases hostTurn_latch_cases x { s with inputs := rest } with hl | ⟨w, rfl, hb, hr⟩
    · exact .inl hl
    · exact .inr (.inl ⟨w, by rw [hi]; rfl, hb, hr⟩)
  | codec ok =>
    obtain ⟨-, hl, -⟩ := codecTurn_frame ok { s with inputs := rest }
    exact .inl (by rw [hturn, hl])
  | codecLate => exact .inl (by rw [hturn]; rfl)
  | resetAssert => exact .inl (by rw [hturn]; rfl)
  | resetDeassert =>
    cases hr : s.inReset
    · rw [hturn, resetDeassertTurn_of_not_inReset (s := { s with inputs := rest }) hr]; exact .inl rfl
    · exact .inr (.inr ⟨by rw [hi]; rfl, rfl⟩)

end Sys2Proof.Machine
end

section
/-! SUPPORT. The CODEC's answers (44_codec_port.md) and the reset (70_reset_and_hazards.md). -/

namespace Sys2Proof.Machine

/-! ### The CODEC's answers (R91, R95, R96) -/

/-- Settles O50, request by request. -/
theorem codecAnswersTheOutstandingRequest : Obligations.CodecAnswersTheOutstandingRequest := by
  refine fun s => ⟨fun d hp => ?acquire, fun h f hp => ?decode, fun h p hp => ?encode,
    codecTurn_of_quiet, fun a => codecTurn_of_answered⟩
  case acquire => simp [codecTurn, hp]
  case decode => simp [codecTurn, hp]
  case encode => simp [codecTurn, hp]

/-! ### Reset -/

/-- Settles O51: the values that `State.reset` writes down, and the words computed from them. -/
theorem resetValuesOfTheBlock : Obligations.ResetValuesOfTheBlock := by
  unfold Obligations.ResetValuesOfTheBlock
  decide

/-- The Releases of a reset: a held context's, then that of a handle not yet taken (R123; log 27). -/
theorem codecLog_resetBlock (s : State) :
    (resetBlock s).codecLog = s.releaseCtx.codecLog ++ s.port.untakenRelease := rfl

theorem abandoned_resetBlock (s : State) : (resetBlock s).abandoned = s.abandoned + s.port.outstanding := rfl

/-- Settles O52: the step is `resetBlock`, whose fields are those of `State.reset` but for the named ones. -/
theorem resetEventAbandonsAndReleases : Obligations.ResetEventAbandonsAndReleases := by
  refine ⟨fun _ => rfl, fun s t rest hr hi hstep => ?_⟩
  rw [step_resetDeassert hi, resetDeassertTurn_of_inReset (s := { s with inputs := rest }) hr] at hstep
  obtain rfl := Host.Outcome.next.inj hstep
  refine ⟨rfl, rfl, rfl, rfl, rfl, rfl, rfl, rfl, ?log, fun r hp => ?abandoned, fun _ => rfl⟩
  case log =>
    rw [codecLog_resetBlock]
    congr 1
    · cases s.ctx <;> simp [State.releaseCtx]
    · cases s.port with
      | quiet | waiting _ => rfl
      | answered a => cases a <;> rfl
  case abandoned => simp [abandoned_resetBlock, hp, Port.outstanding]

/-- Settles O53. -/
theorem assertedResetStopsHostAndEngine : Obligations.AssertedResetStopsHostAndEngine := fun s hr =>
  ⟨fun t => by simp [hostTurn, hr], by simp [engineTurn, hr]⟩

end Sys2Proof.Machine
end

section
/-! SUPPORT. A whole RTP command under the schedule that alternates answers and turns (43_rtp_rewriter.md R84–R89): the packet
it writes, the state at each frame (`RtpAtFrame`), and the run by induction on the frames still to come. -/

namespace Sys2Proof.Machine

/-! ### Runs -/

/-- `Host.Core.run` of this machine. -/
def runSteps (k : Nat) (s : State) : Result := Sys2Proof.core.run k s

theorem runSteps_zero (s : State) : runSteps 0 s = .next s := rfl

theorem runSteps_succ {s t : State} (h : step s = .next t) (k : Nat) : runSteps (k + 1) s = runSteps k t := by
  have hcore : Sys2Proof.core.step s = .next t := h
  simp only [runSteps, Host.Core.run, hcore] <;> rfl

/-- An answer of the CODEC, which leaves `v` with the engine's turn still to come, and that turn. -/
theorem run_codec_engine {u v w : State} (hin : u.inputs = .codec true :: .engine :: v.inputs)
    (hcodec : codecTurn true { u with inputs := .engine :: v.inputs } = { v with inputs := .engine :: v.inputs })
    (hengine : engineTurn v = .next w) (k : Nat) : runSteps (k + 2) u = runSteps k w := by
  have hfirst : step u = .next { v with inputs := .engine :: v.inputs } := by rw [step_codec hin, hcodec]
  have hsecond : step { v with inputs := .engine :: v.inputs } = .next w := (step_engine rfl).trans hengine
  rw [runSteps_succ hfirst, runSteps_succ hsecond]

/-! ### The packet -/

/-- What the CODEC answers to frame n of a run on `s` (R95). -/
def rtpAnswer (d : Dir) (law : Law) (s : State) (n : Nat) : CodecAnswer :=
  match d with
  | .dec => .pcm (Config.g729Dec ((List.range (n + 1)).map (s.rtpInput .dec)))
  | .enc => .bits (Config.g729Enc ((List.range (n + 1)).map fun j => (s.rtpInput .enc j).map (lawDec law)))

/-- The output bytes of frame n. -/
def rtpOutput (d : Dir) (law : Law) (s : State) (n : Nat) : List Byte :=
  match d with
  | .dec => (Config.g729Dec ((List.range (n + 1)).map (s.rtpInput .dec))).toList.map (lawEnc law)
  | .enc => (Config.g729Enc ((List.range (n + 1)).map fun j => (s.rtpInput .enc j).map (lawDec law))).bytes

theorem rtpFrameOutput_rtpAnswer (d : Dir) (law : Law) (s : State) (n : Nat) :
    rtpFrameOutput law d (rtpAnswer d law s n) = some (rtpOutput d law s n) := by
  cases d <;> rfl

/-- The output packet with the first n frames in it. -/
def rtpPacket (d : Dir) (law : Law) (s : State) : Nat → List Byte
  | 0 => s.rtpHeader (ptOut d law)
  | n + 1 => rtpPacket d law s n ++ rtpOutput d law s n

theorem length_rtpPacket_succ (d : Dir) (law : Law) (s : State) (n : Nat) :
    (rtpPacket d law s (n + 1)).length = (rtpPacket d law s n).length + (rtpOutput d law s n).length := by
  simp [rtpPacket]

theorem length_rtpPacket_le (d : Dir) (law : Law) (s : State) (n : Nat) :
    (rtpPacket d law s n).length ≤ rtpHdr + rtpOutFrame d * n := by
  induction n with
  | zero => simp [rtpPacket, rtpHdr]
  | succ n ih =>
    have hout := length_rtpFrameOutput (rtpFrameOutput_rtpAnswer d law s n)
    rw [length_rtpPacket_succ, Nat.mul_succ]
    omega

theorem length_rtpPacket_le_need {d : Dir} {fc : Int} {n : Nat} (h : n ≤ fc.toNat) (law : Law) (s : State) :
    (rtpPacket d law s n).length ≤ rtpNeed d fc :=
  (length_rtpPacket_le d law s n).trans (Nat.add_le_add_left (Nat.mul_le_mul_left _ h) _)

/-- The header stands first, whatever follows. -/
theorem getElem?_rtpPacket_header (d : Dir) (law : Law) (s : State) (n : Nat) {k : Nat} (hk : k < 12) :
    (rtpPacket d law s n)[k]? = (s.rtpHeader (ptOut d law))[k]? := by
  induction n with
  | zero => rfl
  | succ n ih =>
    have hlen : k < (rtpPacket d law s n).length := by
      by_contra hge
      rw [List.getElem?_eq_none (by omega), List.getElem?_eq_getElem (by simpa using hk)] at ih
      cases ih
    rw [rtpPacket, List.getElem?_append_left hlen, ih]

/-- Frame n stands behind the frames before it, whatever follows. -/
theorem getElem?_rtpPacket_frame (d : Dir) (law : Law) (s : State) {n m k : Nat} (hn : n < m)
    (hk : k < (rtpOutput d law s n).length) :
    (rtpPacket d law s m)[(rtpPacket d law s n).length + k]? = (rtpOutput d law s n)[k]? := by
  induction m, hn using Nat.le_induction with
  | base => rw [rtpPacket, List.getElem?_append_right (by omega), Nat.add_sub_cancel_left]
  | succ m _ ih =>
    have hlen : (rtpPacket d law s n).length + k < (rtpPacket d law s m).length := by
      by_contra hge
      rw [List.getElem?_eq_none (by omega), List.getElem?_eq_getElem hk] at ih
      cases ih
    rw [rtpPacket, List.getElem?_append_left hlen, ih]

/-! ### BUF in the course of a run -/

theorem Memory.putAll_append (m : Memory) (a : Nat) (xs ys : List Byte) :
    Memory.putAll m a (xs ++ ys) = Memory.putAll (Memory.putAll m a xs) (a + xs.length) ys := by
  induction xs generalizing m a with
  | nil => rfl
  | cons x xs ih =>
    rw [List.cons_append, Memory.putAll, Memory.putAll, ih, List.length_cons, Nat.add_assoc, Nat.add_comm 1]

/-- BUF of `u` is BUF of `s` with the packet's first n frames written. -/
def PacketWritten (s u : State) (d : Dir) (law : Law) (n : Nat) : Prop :=
  u.epoch = s.epoch ∧ u.buf = Memory.putAll s.buf s.dstStart (rtpPacket d law s n)

theorem PacketWritten.byte_eq {s u : State} {d : Dir} {law : Law} {n : Nat} (h : PacketWritten s u d law n) (x : Nat) :
    u.byte x = (s.writeBytes s.dstStart (rtpPacket d law s n)).byte x :=
  State.byte_congr (s := s.writeBytes s.dstStart (rtpPacket d law s n)) h.2 h.1 x

theorem PacketWritten.append {s u x : State} {d : Dir} {law : Law} {n : Nat} (h : PacketWritten s u d law n)
    (he : x.epoch = u.epoch)
    (hb : x.buf = Memory.putAll u.buf (s.dstStart + (rtpPacket d law s n).length) (rtpOutput d law s n)) :
    PacketWritten s x d law (n + 1) :=
  ⟨he.trans h.1, by rw [hb, h.2, rtpPacket, Memory.putAll_append]⟩

/-- The source region lies outside the destination, so the input frames stay as they were (R110; log 16). -/
theorem PacketWritten.rtpInput_eq {s u : State} {d : Dir} {law : Law} {fc : Int} {n j : Nat}
    (h : PacketWritten s u d law n) (hl : u.latch = s.latch) (hready : RtpReady s d fc) (hn : n ≤ fc.toNat)
    (hj : j < fc.toNat) : u.rtpInput d j = s.rtpInput d j := by
  obtain ⟨-, ⟨-, -, hdisj⟩, hlen, -⟩ := hready
  have hpacket : (rtpPacket d law s n).length ≤ rtpNeed d fc := length_rtpPacket_le_need hn law s
  have hsrc : u.srcStart = s.srcStart := by rw [State.srcStart, hl]; rfl
  have hslot : rtpInFrame d * (j + 1) ≤ rtpInFrame d * fc.toNat := Nat.mul_le_mul_left _ hj
  rw [Nat.mul_succ] at hslot
  rw [rtpRequired] at hlen
  simp only [State.rtpInput, State.bytes, hsrc]
  refine List.map_congr_left fun k hk => ?_
  rw [List.mem_range] at hk
  rw [h.byte_eq, State.byte_writeBytes_outside]
  simp only [Overlap, rtpNeed] at hdisj hpacket
  omega

theorem PacketWritten.rtpRequest_eq {s u : State} {d : Dir} {law : Law} {fc : Int} {n j : Nat}
    (h : PacketWritten s u d law n) (hl : u.latch = s.latch) (hready : RtpReady s d fc) (hn : n ≤ fc.toNat)
    (hj : j < fc.toNat) (c : Handle) : rtpRequest d law c j u = rtpRequest d law c j s := by
  have hinput := h.rtpInput_eq hl hready hn hj
  cases d <;> simp only [rtpRequest, hinput]

/-! ### The state at a frame -/

/-- The frames that the CODEC has seen on the live context (R95). -/
def RtpHistory (s u : State) (d : Dir) (law : Law) (n : Nat) : Prop :=
  match d with
  | .dec => u.decHist = (List.range n).map (s.rtpInput .dec)
  | .enc => u.encHist = (List.range n).map fun j => (s.rtpInput .enc j).map (lawDec law)

/-- A run on `s` holds on frame n: n frames are written, and frame n is out on context c. -/
structure RtpAtFrame (s : State) (d : Dir) (law : Law) (c : Handle) (n : Nat) (u : State) : Prop where
  hw : u.hw = s.hw
  latch : u.latch = s.latch
  inReset : u.inReset = false
  tainted : u.tainted = false
  phase : u.phase = .run (.frame n (rtpPacket d law s n).length)
  ctx : u.ctx = some ⟨d, c⟩
  port : u.port = .waiting (rtpRequest d law c n s)
  history : RtpHistory s u d law n
  packet : PacketWritten s u d law n
  log : u.codecLog = s.codecLog ++ [.acquire d] ++ (List.range (n + 1)).map fun j => rtpRequest d law c j s

/-- A run on `s` has completed: the packet is written, the context released. -/
structure RtpDone (s : State) (d : Dir) (law : Law) (c : Handle) (n : Nat) (rest : List Event) (u : State) : Prop where
  succeeded : Succeeded u (rtpPacket d law s n).length
  ctx : u.ctx = none
  inputs : u.inputs = rest
  packet : PacketWritten s u d law n
  log : u.codecLog = s.codecLog ++ [.acquire d] ++ ((List.range n).map fun j => rtpRequest d law c j s) ++ [.release c]

/-- Sending frame n with n frames written and seen leaves the run at frame n. -/
theorem RtpAtFrame.of_rtpSend {s x : State} {d : Dir} {law : Law} {fc : Int} {c : Handle} {n : Nat} (hhw : x.hw = s.hw)
    (hlatch : x.latch = s.latch) (hreset : x.inReset = false) (htaint : x.tainted = false) (hctx : x.ctx = some ⟨d, c⟩)
    (hhist : RtpHistory s x d law n) (hpacket : PacketWritten s x d law n)
    (hlog : x.codecLog = s.codecLog ++ [.acquire d] ++ (List.range n).map fun j => rtpRequest d law c j s)
    (hready : RtpReady s d fc) (hn : n < fc.toNat) :
    RtpAtFrame s d law c n (rtpSend d law c n (rtpPacket d law s n).length x) := by
  have hreq : rtpRequest d law c n x = rtpRequest d law c n s := hpacket.rtpRequest_eq hlatch hready (by omega) hn c
  refine ⟨hhw, hlatch, hreset, htaint, rfl, hctx, congrArg _ hreq, ?_, hpacket, ?_⟩
  · cases d <;> exact hhist
  · rw [List.range_succ, List.map_append, ← List.append_assoc, ← hlog, List.map_singleton, ← hreq]; rfl

/-- The CODEC's answer to frame n: the history grows by the frame, the port holds R95's function of it. -/
theorem codecTurn_of_rtpRequest {s u : State} {d : Dir} {law : Law} {c : Handle} {n : Nat}
    (hport : u.port = .waiting (rtpRequest d law c n s)) (hhist : RtpHistory s u d law n) :
    ∃ dec enc, RtpHistory s { u with decHist := dec, encHist := enc } d law (n + 1) ∧
      codecTurn true u = { u with decHist := dec, encHist := enc, port := .answered (rtpAnswer d law s n) } := by
  cases d with
  | dec =>
    have hnext : u.decHist ++ [s.rtpInput .dec n] = (List.range (n + 1)).map (s.rtpInput .dec) := by
      rw [List.range_succ, List.map_append, show u.decHist = _ from hhist]; rfl
    refine ⟨_, u.encHist, hnext, ?_⟩
    simp [codecTurn, hport, rtpRequest, rtpAnswer, hnext]
  | enc =>
    have hnext : u.encHist ++ [(s.rtpInput .enc n).map (lawDec law)] =
        (List.range (n + 1)).map fun j => (s.rtpInput .enc j).map (lawDec law) := by
      rw [List.range_succ, List.map_append, show u.encHist = _ from hhist]; rfl
    refine ⟨u.decHist, _, hnext, ?_⟩
    simp [codecTurn, hport, rtpRequest, rtpAnswer, hnext]

section
variable {s : State} {i : Instr} {d : Dir} {law : Law} {fc : Int} {c : Handle} (hi : rtpCommand i = some (d, law, fc))
  (hdec : decode s.hw s.latch.opWord = .ok i) (hready : RtpReady s d fc)
include hi hdec

/-- An answer and the turn after it, at frame n: the output is appended to the packet, in `x`, and the run sends the next frame
or completes. -/
theorem run_frame {u : State} {n : Nat} {rest : List Event} (hu : RtpAtFrame s d law c n u)
    (hin : u.inputs = .codec true :: .engine :: rest) (k : Nat) : ∃ dec enc x,
    x = { u with decHist := dec, encHist := enc, port := .quiet, inputs := rest, buf := x.buf } ∧
    RtpHistory s x d law (n + 1) ∧ PacketWritten s x d law (n + 1) ∧
    runSteps (k + 2) u = runSteps k
      (if n + 1 < fc.toNat then rtpSend d law c (n + 1) (rtpPacket d law s (n + 1)).length x
        else x.releaseCtx.complete (rtpPacket d law s (n + 1)).length) := by
  obtain ⟨dec, enc, hhist, hcodec⟩ :=
    codecTurn_of_rtpRequest (u := { u with inputs := .engine :: rest }) hu.port hu.history
  obtain ⟨v, hv⟩ : ∃ v, v = { u with
    decHist := dec, encHist := enc, port := .answered (rtpAnswer d law s n), inputs := rest } := ⟨_, rfl⟩
  have hlegal : decode v.hw v.latch.opWord = .ok i := by simpa only [hv, hu.hw, hu.latch] using hdec
  have hturn : engineTurn v = exec i v := by
    refine engineTurn_of_legal ?_ (p := .frame n (rtpPacket d law s n).length) ?_ ?_ hlegal <;> rw [hv]
    · exact hu.inReset
    · exact hu.phase
    · exact hu.tainted
  have hexec : exec i v = .next (rtpFrameDone d law fc ⟨d, c⟩ n (rtpPacket d law s n).length (rtpOutput d law s n) v) := by
    refine exec_frame hi ?_ ?_ ?_ (rtpFrameOutput_rtpAnswer d law s n) <;> rw [hv]
    · exact hu.phase
    · exact hu.ctx
  have hrun : runSteps (k + 2) u = runSteps k
      (rtpFrameDone d law fc ⟨d, c⟩ n (rtpPacket d law s n).length (rtpOutput d law s n) v) := by
    refine run_codec_engine ?_ ?_ (hturn.trans hexec) k <;> rw [hv]
    · exact hin
    · exact hcodec
  have hdst : v.dstStart = s.dstStart := by rw [hv, State.dstStart, hu.latch]; rfl
  rw [rtpFrameDone, ← length_rtpPacket_succ] at hrun
  refine ⟨dec, enc, _, ?_, ?_, ?_, hrun⟩
  · rw [hv]; rfl
  · rw [hv]; cases d <;> exact hhist
  · exact hu.packet.append (by rw [hv]; rfl) (by rw [hdst, hv]; rfl)

include hready

/-- The frames still to come, by induction on their number: the run holds on each of them and completes after the last. -/
theorem run_frames {m n : Nat} (hmn : n + m + 1 = fc.toNat) {u : State} {rest : List Event} (hu : RtpAtFrame s d law c n u)
    (hin : u.inputs = (List.replicate (m + 1) [Event.codec true, Event.engine]).flatten ++ rest) :
    ∃ w, runSteps (2 * (m + 1)) u = .next w ∧ RtpDone s d law c fc.toNat rest w := by
  induction m generalizing n u with
  | zero =>
    obtain ⟨dec, enc, x, hx, hhist, hpacket, hrun⟩ := run_frame hi hdec hu (rest := rest) (by simpa using hin) 0
    have hlast : n + 1 = fc.toNat := by omega
    have hctx : x.ctx = some ⟨d, c⟩ := by rw [hx]; exact hu.ctx
    rw [if_neg (by omega), State.releaseCtx_of_some hctx] at hrun
    rw [← hlast]
    refine ⟨_, hrun, ⟨rfl, rfl, rfl, rfl, rfl, rfl, rfl⟩, rfl, ?_, hpacket, ?_⟩
    · show x.inputs = rest
      rw [hx]
    · show x.codecLog ++ [.release c] = _
      rw [hx, hu.log]
  | succ m ih =>
    obtain ⟨dec, enc, x, hx, hhist, hpacket, hrun⟩ := run_frame hi hdec hu (rest := 
      (List.replicate (m + 1) [Event.codec true, Event.engine]).flatten ++ rest) (by
        rw [hin, List.replicate_succ, List.flatten_cons]; rfl) (2 * (m + 1))
    rw [if_pos (by omega)] at hrun
    have hnext : RtpAtFrame s d law c (n + 1) (rtpSend d law c (n + 1) (rtpPacket d law s (n + 1)).length x) := by
      refine .of_rtpSend ?_ ?_ ?_ ?_ ?_ hhist hpacket ?_ hready (by omega) <;> rw [hx]
      · exact hu.hw
      · exact hu.latch
      · exact hu.inReset
      · exact hu.tainted
      · exact hu.ctx
      · exact hu.log
    obtain ⟨w, hw, hdone⟩ := ih (n := n + 1) (by omega) hnext (by rw [hx]; rfl)
    exact ⟨w, hrun.trans hw, hdone⟩

/-- From acceptance: the checks and Acquire, the handle, then every frame. -/
theorem run_rtp {rest : List Event} (hphase : s.phase = .run .start) (hreset : s.inReset = false)
    (htaint : s.tainted = false) (habandoned : s.abandoned = 0) (hin : s.inputs = rtpSchedule fc.toNat ++ rest) :
    ∃ w, runSteps (2 * fc.toNat + 3) s = .next w ∧ RtpDone s d law (Config.codecHandle s.draws) fc.toNat rest w := by
  obtain ⟨m, hm⟩ : ∃ m, fc.toNat = m + 1 := Nat.exists_eq_succ_of_ne_zero (by have := hready.fc_pos; omega)
  obtain ⟨tail, htail⟩ : ∃ tail, tail = (List.replicate (m + 1) [Event.codec true, Event.engine]).flatten ++ rest := ⟨_, rfl⟩
  have hin : s.inputs = .engine :: .codec true :: .engine :: tail := by
    rw [hin, rtpSchedule, hm, List.replicate_succ, List.flatten_cons, htail]; rfl
  obtain ⟨u, hu⟩ : ∃ u, u = { s with
    inputs := .codec true :: .engine :: tail, port := .waiting (.acquire d), codecLog := s.codecLog ++ [CodecRequest.acquire d],
    phase := .run .acquiring } := ⟨_, rfl⟩
  have hacquire : step s = .next u := by
    rw [step_engine hin, hu]
    refine (engineTurn_of_legal (s := { s with inputs := .codec true :: .engine :: tail }) hreset hphase htaint hdec).trans ?_
    obtain ⟨hissue, -⟩ := rtpCommandsAcquireAfterTheChecks { s with inputs := .codec true :: .engine :: tail } i d law fc hi
      hphase hready
    exact hissue habandoned
  obtain ⟨v, hv⟩ : ∃ v, v = { u with
    inputs := tail, port := .answered (.handle (Config.codecHandle s.draws)), draws := s.draws + 1, decHist := [],
    encHist := [] } := ⟨_, rfl⟩
  have hturn : engineTurn v = .next (rtpAcquired d law (Config.codecHandle s.draws) v) := by
    have hphase : v.phase = .run .acquiring := by subst hv hu; rfl
    have hport : v.port = .answered (.handle (Config.codecHandle s.draws)) := by subst hv; rfl
    have hlegal : engineTurn v = exec i v := by
      refine engineTurn_of_legal ?_ hphase ?_ ?_ <;> subst hv hu
      · exact hreset
      · exact htaint
      · exact hdec
    rw [hlegal, exec_of_rtpCommand hi, rtpNext_of_acquiring hphase, rtpAcquireTurn_of_handle hport]
  have hrun : runSteps (2 * fc.toNat + 3) s =
      runSteps (2 * (m + 1)) (rtpAcquired d law (Config.codecHandle s.draws) v) := by
    rw [runSteps_succ hacquire, hm]
    refine run_codec_engine ?_ ?_ hturn _ <;> subst hv hu <;> rfl
  have hstart : RtpAtFrame s d law (Config.codecHandle s.draws) 0 (rtpAcquired d law (Config.codecHandle s.draws) v) := by
    have hlen : (rtpPacket d law s 0).length = rtpHdr := State.length_rtpHeader _ _
    rw [rtpAcquired, ← hlen]
    subst hv hu
    refine .of_rtpSend rfl rfl hreset htaint rfl ?_ ⟨rfl, rfl⟩ ?_ hready (by omega)
    · cases d <;> rfl
    · exact (List.append_nil _).symm
  rw [hrun]
  exact run_frames hi hdec hready (by omega) hstart (by subst hv hu; exact htail)

end

/-! ### What the packet's bytes are -/

theorem PacketWritten.byte_packet {s u : State} {d : Dir} {law : Law} {n : Nat} (h : PacketWritten s u d law n) {k : Nat}
    (hk : k < (rtpPacket d law s n).length) : u.byte (s.dstStart + k) = (rtpPacket d law s n)[k] := by
  rw [h.byte_eq, State.byte_writeBytes_inside s _ hk]

theorem PacketWritten.bytesKeptOutside {s u : State} {d : Dir} {law : Law} {n : Nat} (h : PacketWritten s u d law n) :
    BytesKeptOutside s u s.dstStart (rtpPacket d law s n).length := fun x hx => by
  rw [h.byte_eq, State.byte_writeBytes_outside s hx]

/-- The header of a written packet. -/
theorem PacketWritten.byte_header {s u : State} {d : Dir} {law : Law} {n : Nat} (h : PacketWritten s u d law n) {k : Nat}
    (hk : k < 12) : u.byte (s.dstStart + k) = (s.rtpHeader (ptOut d law))[k]'(by simpa using hk) := by
  have hget := getElem?_rtpPacket_header d law s n hk
  rw [List.getElem?_eq_getElem (l := s.rtpHeader _) (by simpa using hk)] at hget
  obtain ⟨hlen, hget⟩ := List.getElem?_eq_some_iff.mp hget
  rw [h.byte_packet hlen, hget]

/-- Frame j of a written packet. -/
theorem PacketWritten.byte_frame {s u : State} {d : Dir} {law : Law} {n : Nat} (h : PacketWritten s u d law n) {j k : Nat}
    (hj : j < n) (hk : k < (rtpOutput d law s j).length) :
    u.byte (s.dstStart + (rtpPacket d law s j).length + k) = (rtpOutput d law s j)[k] := by
  have hget := getElem?_rtpPacket_frame d law s hj hk
  rw [List.getElem?_eq_getElem hk] at hget
  obtain ⟨hlen, hget⟩ := List.getElem?_eq_some_iff.mp hget
  rw [Nat.add_assoc, h.byte_packet hlen, hget]

/-- A decoded packet grows by 80 bytes a frame (R84). -/
theorem length_rtpPacket_dec (law : Law) (s : State) (n : Nat) : (rtpPacket .dec law s n).length = 12 + 80 * n := by
  induction n with
  | zero => exact State.length_rtpHeader _ _
  | succ n ih =>
    have hout : (rtpOutput .dec law s n).length = 80 := length_compandedFrame law _
    rw [length_rtpPacket_succ, ih, hout, Nat.mul_succ, Nat.add_assoc]

/-- An encoded packet grows by what the CODEC returned (R86). -/
theorem length_rtpPacket_enc (law : Law) (s : State) (n : Nat) : (rtpPacket .enc law s n).length = encOffset law s n := by
  induction n with
  | zero => exact State.length_rtpHeader _ _
  | succ n ih =>
    rw [length_rtpPacket_succ, ih, encOffset, encOffset, List.range_succ, List.map_append, List.sum_append,
      List.map_singleton, List.sum_singleton, Nat.add_assoc]
    rfl

/-! ### The statements -/

/-- What a completed run leaves in BUF: the header with its payload type replaced, every frame, and nothing else. -/
theorem RtpDone.bytes {s t : State} {d : Dir} {law : Law} {c : Handle} {n : Nat} {rest : List Event}
    (h : RtpDone s d law c n rest t) :
    (∀ k < 12, k ≠ 1 → t.byte (s.dstStart + k) = s.byte (s.srcStart + k)) ∧
      t.byte (s.dstStart + 1) = ((s.byte (s.srcStart + 1) &&& 0x80) ||| BitVec.ofNat 8 (ptOut d law)) ∧
      (∀ j < n, ∀ k, (hk : k < (rtpOutput d law s j).length) →
        t.byte (s.dstStart + (rtpPacket d law s j).length + k) = (rtpOutput d law s j)[k]) ∧
      BytesKeptOutside s t s.dstStart (rtpPacket d law s n).length := by
  refine ⟨fun k hk h1 => ?_, ?_, fun j hj k hk => h.packet.byte_frame hj hk, h.packet.bytesKeptOutside⟩
  · rw [h.packet.byte_header hk, getElem_rtpHeader s _ _ h1]
  · rw [h.packet.byte_header (by decide), rtpHeader_one]

/-- Settles O32: the run of `run_rtp`, whose frames are 80 companded bytes each. -/
theorem rtpdRewritesTheWholePacket : Obligations.RtpdRewritesTheWholePacket := by
  intro s i law fc rest hi hdec hphase _ _ habandoned hreset htaint hready hin
  obtain ⟨t, hrun, hdone⟩ := run_rtp hi hdec hready hphase hreset htaint habandoned hin
  obtain ⟨hheader, htype, hframes, hkept⟩ := hdone.bytes
  have hsucceeded := hdone.succeeded
  simp only [length_rtpPacket_dec, ← Nat.add_assoc] at hsucceeded hframes hkept
  refine ⟨t, hrun, hsucceeded, hdone.ctx, hdone.inputs, hheader, ?_, fun n hn k hk => ?_, hkept, hdone.log⟩
  · rw [htype]
    cases law <;> rfl
  · rw [hframes n hn k (by simpa [rtpOutput] using hk)]
    simp only [rtpOutput, List.getElem_map, Vector.getElem_toList] <;> rfl

/-- Settles O33: the same run, whose frames are the CODEC's own bytes. -/
theorem rtpeRewritesTheWholePacket : Obligations.RtpeRewritesTheWholePacket := by
  intro s i law fc rest hi hdec hphase _ _ habandoned hreset htaint hready hin
  obtain ⟨t, hrun, hdone⟩ := run_rtp hi hdec hready hphase hreset htaint habandoned hin
  obtain ⟨hheader, htype, hframes, hkept⟩ := hdone.bytes
  have hsucceeded := hdone.succeeded
  simp only [length_rtpPacket_enc] at hsucceeded hframes hkept
  exact ⟨t, hrun, hsucceeded, hdone.ctx, hdone.inputs, hheader, htype, hframes, hkept, hdone.log⟩

end Sys2Proof.Machine
end
